-- ==== Sys2Proof/Word.lean ====
section
/-!
DEFINITION. The word types of the 6502-disasm decoder core: a byte of the ByteStream and a 16-bit operand
(spec 00_scope.md R9, R10). Cursor and range values are natural numbers (R8, `PC_W`) and need no type of their own.
-/

namespace Sys2Proof

/-- One unsigned byte of the ByteStream, an opcode among them (R9, R21). -/
abbrev Byte := BitVec 8

/-- A 16-bit operand value (R71). -/
abbrev Half := BitVec 16

end Sys2Proof
end

