-- ==== Sys2Proof/Syntax.lean ====
section
/-!
DEFINITION. The syntax the decoder classifies: mnemonics, addressing modes, opcode classes, and the instructions
(spec 30_encoding.md R60 to R70). The table of the spec has one row per opcode byte; `Instr` has one constructor per
mnemonic of it, and the well-formed values of `Instr` stand one to one for the 256 bytes (log 10).
-/

namespace Sys2Proof

/-- The 56 mnemonics (10_state.md R28): 34 of R63, then the 22 of R64 to R66. -/
inductive Mnemonic where
  | brk | rti | rts | php | plp | pha | pla | tax | txa
  | tay | tya | tsx | txs | dex | dey | inx | iny | clc
  | sec | cli | sei | clv | cld | sed | nop | bpl | bmi
  | bvc | bvs | bcc | bcs | bne | beq | jsr
  | ora | and | eor | adc | sta | lda | cmp | sbc
  | bit | jmp | sty | ldy | cpy | cpx
  | asl | rol | lsr | ror | stx | ldx | dec | inc
  deriving DecidableEq, Repr

/-- The 12 addressing modes, by the abbreviations of R67. -/
inductive Mode where
  | imp | acc | imm | zp | zpx | zpy | abs | abx | aby | izx | izy | rel
  deriving DecidableEq, Repr

/-- `Class` of R62: what the classifier says of an opcode byte. -/
inductive OpClass where
  | special (mn : Mnemonic) (md : Mode)
  | generic (mn : Mnemonic) (md : Mode)
  | illegalMode (mn : Mnemonic)
  | unknown
  deriving DecidableEq, Repr

/-- The columns of `MODE_00` that reach family 00's instructions (R68). Its ILL columns 2, 4 and 6 belong to special opcodes. -/
inductive Mode00 where
  | imm | zp | abs | zpx | abx
  deriving DecidableEq, Repr

/-- The columns of `MODE_01` (R69), in the table's order. -/
inductive Mode01 where
  | izx | zp | imm | abs | izy | zpx | aby | abx
  deriving DecidableEq, Repr

/-- The columns of `MODE_10` (R70), in the table's order. `ill4` and `ill6` are its two ILL columns, told apart because
they are different opcode bytes. -/
inductive Mode10 where
  | imm | zp | acc | abs | ill4 | zpx | ill6 | abx
  deriving DecidableEq, Repr

/-- The two instruction indices of family 00 that are JMP (R65, R161). -/
inductive JmpIndex where
  | two | three
  deriving DecidableEq, Repr

/-- What one opcode byte says (R60: "The opcode byte alone decides the format"). Operand bytes are no part of it: the
step reads them from the ByteStream after its length check (R92). -/
inductive Instr where
  -- special table, 41_special.md R110 to R143
  | brk | rti | rts | php | plp | pha | pla | tax | txa
  | tay | tya | tsx | txs | dex | dey | inx | iny | clc
  | sec | cli | sei | clv | cld | sed | nop | bpl | bmi
  | bvc | bvs | bcc | bcs | bne | beq | jsr
  -- family 01, 42_family01.md R150 to R157
  | ora (m : Mode01)
  | and (m : Mode01)
  | eor (m : Mode01)
  | adc (m : Mode01)
  | sta (m : Mode01)
  | lda (m : Mode01)
  | cmp (m : Mode01)
  | sbc (m : Mode01)
  -- family 00, 43_family00.md R160 to R165
  | bit (m : Mode00)
  | jmp (i : JmpIndex) (m : Mode00)
  | sty (m : Mode00)
  | ldy (m : Mode00)
  | cpy (m : Mode00)
  | cpx (m : Mode00)
  -- family 10, 44_family10.md R170 to R178
  | asl (m : Mode10)
  | rol (m : Mode10)
  | lsr (m : Mode10)
  | ror (m : Mode10)
  | stx (m : Mode10)
  | ldx (m : Mode10)
  | dec (m : Mode10)
  | inc (m : Mode10)
  -- the Unknown class, 43_family00.md R166 and 45_family11.md R180
  | unknown (op : Byte)
  deriving DecidableEq, Repr

/-- One row of the special table (R63), with the instruction its byte stands for. -/
structure SpecialRow where
  opcode : Byte
  instr : Instr
  mnemonic : Mnemonic
  mode : Mode
  deriving DecidableEq, Repr

end Sys2Proof
end

