-- ==== Sys2Proof/WellFormed.lean ====
section
/-!
DEFINITION. Which values of `Instr` an opcode byte stands for. A family column that the special table takes for itself
(spec 30_encoding.md R63, "The special table has priority") is no encoding of the family's mnemonic, and `unknown` is for
the 68 bytes of R181 alone.
-/

namespace Sys2Proof

/-- The 68 bytes of the Unknown class (R181): family 11 (R180), and the four bytes of R166. -/
def isUnknownByte (op : Byte) : Bool :=
  op.extractLsb' 0 2 == 3 || op == 0x04 || op == 0x0C || op == 0x14 || op == 0x1C

/-- The instruction is the decoding of some opcode byte. -/
def Instr.wellFormed : Instr → Bool
  | .bit m => m != .imm          -- 0x20 is JSR (R160)
  | .jmp _ m => m != .imm        -- 0x40 is RTI, 0x60 is RTS (R161)
  | .stx m => m != .acc && m != .ill6  -- 0x8A is TXA, 0x9A is TXS (R174)
  | .ldx m => m != .acc && m != .ill6  -- 0xAA is TAX, 0xBA is TSX (R175)
  | .dec m => m != .acc          -- 0xCA is DEX (R176)
  | .inc m => m != .acc          -- 0xEA is NOP (R177)
  | .unknown op => isUnknownByte op
  | .brk | .rti | .rts | .php | .plp | .pha | .pla => true
  | .tax | .txa | .tay | .tya | .tsx | .txs | .dex | .dey | .inx | .iny => true
  | .clc | .sec | .cli | .sei | .clv | .cld | .sed | .nop => true
  | .bpl | .bmi | .bvc | .bvs | .bcc | .bcs | .bne | .beq | .jsr => true
  | .ora _ | .and _ | .eor _ | .adc _ | .sta _ | .lda _ | .cmp _ | .sbc _ => true
  | .sty _ | .ldy _ | .cpy _ | .cpx _ => true
  | .asl _ | .rol _ | .lsr _ | .ror _ => true

end Sys2Proof
end

