-- ==== Sys2Proof/Decode.lean ====
section
/-!
DEFINITION. The opcode classifier, the addressing-mode resolver and the length ROM (spec 30_encoding.md R61 to R77),
the decoder from an opcode byte to `Instr`, and the encoder back. The classifier `classify` is R62 over the tables as the
spec prints them; `decode` is total, since "The DDC never refuses or stops on a byte" (R181).
-/

namespace Sys2Proof

/-! ### The fields of the opcode byte (R61) -/

/-- `f = op[1:0]` -/
def opFamily (op : Byte) : BitVec 2 := op.extractLsb' 0 2

/-- `m = op[4:2]` -/
def opModeIndex (op : Byte) : BitVec 3 := op.extractLsb' 2 3

/-- `i = op[7:5]` -/
def opInstrIndex (op : Byte) : BitVec 3 := op.extractLsb' 5 3

/-- The byte `aaabbbcc` of an instruction index, a mode index and a family (R61). -/
def packOpcode (i m : BitVec 3) (f : BitVec 2) : Byte := i ++ m ++ f

/-! ### The special table (R63) -/

/-- BRK, the returns, the stack, transfer and count opcodes of R63. -/
def specialTable1 : List SpecialRow := [
  ⟨0x00, .brk, .brk, .imp⟩,
  ⟨0x40, .rti, .rti, .imp⟩,
  ⟨0x60, .rts, .rts, .imp⟩,
  ⟨0x08, .php, .php, .imp⟩,
  ⟨0x28, .plp, .plp, .imp⟩,
  ⟨0x48, .pha, .pha, .imp⟩,
  ⟨0x68, .pla, .pla, .imp⟩,
  ⟨0xAA, .tax, .tax, .imp⟩,
  ⟨0x8A, .txa, .txa, .imp⟩,
  ⟨0xA8, .tay, .tay, .imp⟩,
  ⟨0x98, .tya, .tya, .imp⟩,
  ⟨0xBA, .tsx, .tsx, .imp⟩,
  ⟨0x9A, .txs, .txs, .imp⟩,
  ⟨0xCA, .dex, .dex, .imp⟩,
  ⟨0x88, .dey, .dey, .imp⟩,
  ⟨0xE8, .inx, .inx, .imp⟩,
  ⟨0xC8, .iny, .iny, .imp⟩]

/-- The flag opcodes, NOP, the branches and JSR of R63. -/
def specialTable2 : List SpecialRow := [
  ⟨0x18, .clc, .clc, .imp⟩,
  ⟨0x38, .sec, .sec, .imp⟩,
  ⟨0x58, .cli, .cli, .imp⟩,
  ⟨0x78, .sei, .sei, .imp⟩,
  ⟨0xB8, .clv, .clv, .imp⟩,
  ⟨0xD8, .cld, .cld, .imp⟩,
  ⟨0xF8, .sed, .sed, .imp⟩,
  ⟨0xEA, .nop, .nop, .imp⟩,
  ⟨0x10, .bpl, .bpl, .rel⟩,
  ⟨0x30, .bmi, .bmi, .rel⟩,
  ⟨0x50, .bvc, .bvc, .rel⟩,
  ⟨0x70, .bvs, .bvs, .rel⟩,
  ⟨0x90, .bcc, .bcc, .rel⟩,
  ⟨0xB0, .bcs, .bcs, .rel⟩,
  ⟨0xD0, .bne, .bne, .rel⟩,
  ⟨0xF0, .beq, .beq, .rel⟩,
  ⟨0x20, .jsr, .jsr, .abs⟩]

/-- `SPECIAL`, the 34 rows of R63 in its order (byte values: log 7). -/
def specialTable : List SpecialRow := specialTable1 ++ specialTable2

/-- `SPECIAL[op]`, where `op` is in its domain (R62). -/
def specialRow? (op : Byte) : Option SpecialRow := specialTable.find? (fun r => r.opcode == op)

/-! ### The family tables (R64 to R66, R68 to R70) -/

/-- `INSTR_01` (R64). -/
def instr01 (i : BitVec 3) : Mnemonic :=
  match i.toNat with
  | 0 => .ora
  | 1 => .and
  | 2 => .eor
  | 3 => .adc
  | 4 => .sta
  | 5 => .lda
  | 6 => .cmp
  | _ => .sbc

/-- `INSTR_00` (R65); `none` is its `illegal` entry. -/
def instr00 (i : BitVec 3) : Option Mnemonic :=
  match i.toNat with
  | 0 => none
  | 1 => some .bit
  | 2 => some .jmp
  | 3 => some .jmp
  | 4 => some .sty
  | 5 => some .ldy
  | 6 => some .cpy
  | _ => some .cpx

/-- `INSTR_10` (R66). -/
def instr10 (i : BitVec 3) : Mnemonic :=
  match i.toNat with
  | 0 => .asl
  | 1 => .rol
  | 2 => .lsr
  | 3 => .ror
  | 4 => .stx
  | 5 => .ldx
  | 6 => .dec
  | _ => .inc

/-- `MODE_00` (R68); `none` is the verdict ILL. -/
def mode00 (m : BitVec 3) : Option Mode :=
  match m.toNat with
  | 0 => some .imm
  | 1 => some .zp
  | 3 => some .abs
  | 5 => some .zpx
  | 7 => some .abx
  | _ => none

/-- `MODE_01` (R69). -/
def mode01 (m : BitVec 3) : Mode :=
  match m.toNat with
  | 0 => .izx
  | 1 => .zp
  | 2 => .imm
  | 3 => .abs
  | 4 => .izy
  | 5 => .zpx
  | 6 => .aby
  | _ => .abx

/-- `MODE_10` (R70); `none` is the verdict ILL. -/
def mode10 (m : BitVec 3) : Option Mode :=
  match m.toNat with
  | 0 => some .imm
  | 1 => some .zp
  | 2 => some .acc
  | 3 => some .abs
  | 5 => some .zpx
  | 7 => some .abx
  | _ => none

/-- The addressing-mode resolver (R70); `none` is the verdict ILL. Family 11 has no mode table (R66). -/
def resolve (zpySubst : Bool) (f : BitVec 2) (i m : BitVec 3) : Option Mode :=
  match f.toNat with
  | 0 => mode00 m
  | 1 => some (mode01 m)
  | 2 =>
    if zpySubst && (i == 4 || i == 5) && m == 5 then some .zpy
    else if zpySubst && i == 5 && m == 7 then some .aby
    else mode10 m
  | _ => none

/-! ### The classifier (R62) -/

/-- The mnemonic the family tables give, or `none` where R62 returns `Unknown`. -/
def familyMnemonic (op : Byte) : Option Mnemonic :=
  match (opFamily op).toNat with
  | 0 => instr00 (opInstrIndex op)
  | 1 => some (instr01 (opInstrIndex op))
  | 2 => some (instr10 (opInstrIndex op))
  | _ => none

/-- R62 after the special table: what the family tables alone give a byte. -/
def familyClass (zpySubst : Bool) (op : Byte) : OpClass :=
  match familyMnemonic op with
  | none => .unknown
  | some mn =>
    match resolve zpySubst (opFamily op) (opInstrIndex op) (opModeIndex op) with
    | none => .illegalMode mn
    | some md => .generic mn md

/-- `classify` (R62): the special table first, then the family tables. -/
def classify (zpySubst : Bool) (op : Byte) : OpClass :=
  match specialRow? op with
  | some r => .special r.mnemonic r.mode
  | none => familyClass zpySubst op

/-! ### The parts of a class (R82) -/

/-- `mnemonic` of the record: none for Unknown (R82). -/
def OpClass.mnemonic : OpClass → Option Mnemonic
  | .special mn _ | .generic mn _ | .illegalMode mn => some mn
  | .unknown => none

/-- The addressing mode of a Special or Generic class. -/
def OpClass.mode : OpClass → Option Mode
  | .special _ md | .generic _ md => some md
  | .illegalMode _ | .unknown => none

/-! ### Widths and the length ROM (R67, R73 to R75) -/

/-- `WIDTH[mode]`, the number of operand bytes (R67). -/
def Mode.width : Mode → Nat
  | .imp | .acc => 0
  | .imm | .zp | .zpx | .zpy | .izx | .izy | .rel => 1
  | .abs | .abx | .aby => 2

/-- The length ROM, row by high nibble and column by low nibble, as R75 prints it. -/
def lengthRows : List (List Nat) := [
  [2, 2, 2, 1, 1, 2, 2, 1, 1, 2, 1, 1, 1, 3, 3, 1],
  [2, 2, 1, 1, 1, 2, 2, 1, 1, 3, 1, 1, 1, 3, 3, 1],
  [3, 2, 2, 1, 2, 2, 2, 1, 1, 2, 1, 1, 3, 3, 3, 1],
  [2, 2, 1, 1, 2, 2, 2, 1, 1, 3, 1, 1, 3, 3, 3, 1],
  [1, 2, 2, 1, 2, 2, 2, 1, 1, 2, 1, 1, 3, 3, 3, 1],
  [2, 2, 1, 1, 2, 2, 2, 1, 1, 3, 1, 1, 3, 3, 3, 1],
  [1, 2, 2, 1, 2, 2, 2, 1, 1, 2, 1, 1, 3, 3, 3, 1],
  [2, 2, 1, 1, 2, 2, 2, 1, 1, 3, 1, 1, 3, 3, 3, 1],
  [2, 2, 2, 1, 2, 2, 2, 1, 1, 2, 1, 1, 3, 3, 3, 1],
  [2, 2, 1, 1, 2, 2, 2, 1, 1, 3, 1, 1, 3, 3, 3, 1],
  [2, 2, 2, 1, 2, 2, 2, 1, 1, 2, 1, 1, 3, 3, 3, 1],
  [2, 2, 1, 1, 2, 2, 2, 1, 1, 3, 1, 1, 3, 3, 3, 1],
  [2, 2, 2, 1, 2, 2, 2, 1, 1, 2, 1, 1, 3, 3, 3, 1],
  [2, 2, 1, 1, 2, 2, 2, 1, 1, 3, 1, 1, 3, 3, 3, 1],
  [2, 2, 2, 1, 2, 2, 2, 1, 1, 2, 1, 1, 3, 3, 3, 1],
  [2, 2, 1, 1, 2, 2, 2, 1, 1, 3, 1, 1, 3, 3, 3, 1]]

/-- `LEN[op]`, read from the ROM of R75. -/
def lengthRom (op : Byte) : Nat :=
  (lengthRows.getD (op.extractLsb' 4 4).toNat []).getD (op.extractLsb' 0 4).toNat 1

/-! ### The decoder: an opcode byte to its instruction -/

/-- The column of `MODE_00` a mode index names; `none` for the ILL columns (R68). -/
def column00 (m : BitVec 3) : Option Mode00 :=
  match m.toNat with
  | 0 => some .imm
  | 1 => some .zp
  | 3 => some .abs
  | 5 => some .zpx
  | 7 => some .abx
  | _ => none

/-- The column of `MODE_01` a mode index names (R69). -/
def column01 (m : BitVec 3) : Mode01 :=
  match m.toNat with
  | 0 => .izx
  | 1 => .zp
  | 2 => .imm
  | 3 => .abs
  | 4 => .izy
  | 5 => .zpx
  | 6 => .aby
  | _ => .abx

/-- The column of `MODE_10` a mode index names (R70). -/
def column10 (m : BitVec 3) : Mode10 :=
  match m.toNat with
  | 0 => .imm
  | 1 => .zp
  | 2 => .acc
  | 3 => .abs
  | 4 => .ill4
  | 5 => .zpx
  | 6 => .ill6
  | _ => .abx

/-- Family 00 (R65, R68). Index 0 is the Unknown class (R166); the ILL columns are taken by the special table (R68), so
the last line is met by index 0 only. -/
def decode00 (op : Byte) : Instr :=
  match (opInstrIndex op).toNat, column00 (opModeIndex op) with
  | 1, some m => .bit m
  | 2, some m => .jmp .two m
  | 3, some m => .jmp .three m
  | 4, some m => .sty m
  | 5, some m => .ldy m
  | 6, some m => .cpy m
  | 7, some m => .cpx m
  | _, _ => .unknown op

/-- Family 01 (R64, R69). -/
def decode01 (op : Byte) : Instr :=
  let m := column01 (opModeIndex op)
  match (opInstrIndex op).toNat with
  | 0 => .ora m
  | 1 => .and m
  | 2 => .eor m
  | 3 => .adc m
  | 4 => .sta m
  | 5 => .lda m
  | 6 => .cmp m
  | _ => .sbc m

/-- Family 10 (R66, R70). -/
def decode10 (op : Byte) : Instr :=
  let m := column10 (opModeIndex op)
  match (opInstrIndex op).toNat with
  | 0 => .asl m
  | 1 => .rol m
  | 2 => .lsr m
  | 3 => .ror m
  | 4 => .stx m
  | 5 => .ldx m
  | 6 => .dec m
  | _ => .inc m

/-- The instruction of an opcode byte, in R62's order. Total over the 256 bytes. -/
def decode (op : Byte) : Instr :=
  match specialRow? op with
  | some r => r.instr
  | none =>
    match (opFamily op).toNat with
    | 0 => decode00 op
    | 1 => decode01 op
    | 2 => decode10 op
    | _ => .unknown op

/-- The instruction that starts a list of bytes; `none` only where there is no byte at all. The bytes after the first
play no part (R79). -/
def decodeBytes : List Byte → Option Instr
  | [] => none
  | op :: _ => some (decode op)

/-- The longest instruction is 3 bytes (R9): the bytes of a table word, first byte lowest, zeros above `nbits`. -/
def tableBytes (nbits w : Nat) : List Byte :=
  let v := w % 2 ^ nbits
  [BitVec.ofNat 8 v, BitVec.ofNat 8 (v / 256), BitVec.ofNat 8 (v / 65536)]

/-- What the decoder reads from a word of `spec/opcode_table.json`; a word of no bits is no instruction. -/
def decodeTableWord (nbits w : Nat) : Option Instr :=
  if nbits = 0 then none else decodeBytes (tableBytes nbits w)

/-! ### The encoder -/

/-- The mode index of a column of `MODE_00` (R68). -/
def Mode00.index : Mode00 → BitVec 3
  | .imm => 0 | .zp => 1 | .abs => 3 | .zpx => 5 | .abx => 7

/-- The mode index of a column of `MODE_01` (R69). -/
def Mode01.index : Mode01 → BitVec 3
  | .izx => 0 | .zp => 1 | .imm => 2 | .abs => 3 | .izy => 4 | .zpx => 5 | .aby => 6 | .abx => 7

/-- The mode index of a column of `MODE_10` (R70). -/
def Mode10.index : Mode10 → BitVec 3
  | .imm => 0 | .zp => 1 | .acc => 2 | .abs => 3 | .ill4 => 4 | .zpx => 5 | .ill6 => 6 | .abx => 7

/-- The instruction index of a JMP (R65). -/
def JmpIndex.index : JmpIndex → BitVec 3
  | .two => 2 | .three => 3

/-- The opcode byte of an instruction: R63's bytes for the special opcodes, `aaabbbcc` (R61) for the families. -/
def encode : Instr → Byte
  | .brk => 0x00 | .rti => 0x40 | .rts => 0x60 | .php => 0x08 | .plp => 0x28 | .pha => 0x48
  | .pla => 0x68 | .tax => 0xAA | .txa => 0x8A | .tay => 0xA8 | .tya => 0x98 | .tsx => 0xBA
  | .txs => 0x9A | .dex => 0xCA | .dey => 0x88 | .inx => 0xE8 | .iny => 0xC8 | .clc => 0x18
  | .sec => 0x38 | .cli => 0x58 | .sei => 0x78 | .clv => 0xB8 | .cld => 0xD8 | .sed => 0xF8
  | .nop => 0xEA | .bpl => 0x10 | .bmi => 0x30 | .bvc => 0x50 | .bvs => 0x70 | .bcc => 0x90
  | .bcs => 0xB0 | .bne => 0xD0 | .beq => 0xF0 | .jsr => 0x20
  | .ora m => packOpcode 0 m.index 1
  | .and m => packOpcode 1 m.index 1
  | .eor m => packOpcode 2 m.index 1
  | .adc m => packOpcode 3 m.index 1
  | .sta m => packOpcode 4 m.index 1
  | .lda m => packOpcode 5 m.index 1
  | .cmp m => packOpcode 6 m.index 1
  | .sbc m => packOpcode 7 m.index 1
  | .bit m => packOpcode 1 m.index 0
  | .jmp i m => packOpcode i.index m.index 0
  | .sty m => packOpcode 4 m.index 0
  | .ldy m => packOpcode 5 m.index 0
  | .cpy m => packOpcode 6 m.index 0
  | .cpx m => packOpcode 7 m.index 0
  | .asl m => packOpcode 0 m.index 2
  | .rol m => packOpcode 1 m.index 2
  | .lsr m => packOpcode 2 m.index 2
  | .ror m => packOpcode 3 m.index 2
  | .stx m => packOpcode 4 m.index 2
  | .ldx m => packOpcode 5 m.index 2
  | .dec m => packOpcode 6 m.index 2
  | .inc m => packOpcode 7 m.index 2
  | .unknown op => op

/-! ### Words written out from the spec, one or more for every constructor -/

/-- R110 to R126: the bytes of the special table, as 41_special.md writes them in binary. -/
theorem decode_special_words1 :
    decode 0b00000000 = .brk ∧ decode 0b01000000 = .rti ∧ decode 0b01100000 = .rts ∧
    decode 0b00001000 = .php ∧ decode 0b00101000 = .plp ∧ decode 0b01001000 = .pha ∧
    decode 0b01101000 = .pla ∧ decode 0b10101010 = .tax ∧ decode 0b10001010 = .txa ∧
    decode 0b10101000 = .tay ∧ decode 0b10011000 = .tya ∧ decode 0b10111010 = .tsx ∧
    decode 0b10011010 = .txs ∧ decode 0b11001010 = .dex ∧ decode 0b10001000 = .dey ∧
    decode 0b11101000 = .inx ∧ decode 0b11001000 = .iny := by
  decide

/-- R127 to R143. -/
theorem decode_special_words2 :
    decode 0b00011000 = .clc ∧ decode 0b00111000 = .sec ∧ decode 0b01011000 = .cli ∧
    decode 0b01111000 = .sei ∧ decode 0b10111000 = .clv ∧ decode 0b11011000 = .cld ∧
    decode 0b11111000 = .sed ∧ decode 0b11101010 = .nop ∧ decode 0b00010000 = .bpl ∧
    decode 0b00110000 = .bmi ∧ decode 0b01010000 = .bvc ∧ decode 0b01110000 = .bvs ∧
    decode 0b10010000 = .bcc ∧ decode 0b10110000 = .bcs ∧ decode 0b11010000 = .bne ∧
    decode 0b11110000 = .beq ∧ decode 0b00100000 = .jsr := by
  decide

/-- R150 to R157: the pattern `aaabbb01` of each mnemonic, one column each. -/
theorem decode_family01_words :
    decode 0b00000001 = .ora .izx ∧ decode 0b00100101 = .and .zp ∧ decode 0b01001001 = .eor .imm ∧
    decode 0b01101101 = .adc .abs ∧ decode 0b10010001 = .sta .izy ∧ decode 0b10110101 = .lda .zpx ∧
    decode 0b11011001 = .cmp .aby ∧ decode 0b11111101 = .sbc .abx := by
  decide

/-- R160 to R165: the pattern `aaabbb00` of each mnemonic; JMP at both of its indices. -/
theorem decode_family00_words :
    decode 0b00100100 = .bit .zp ∧ decode 0b01001100 = .jmp .two .abs ∧ decode 0b01101100 = .jmp .three .abs ∧
    decode 0b10010100 = .sty .zpx ∧ decode 0b10100000 = .ldy .imm ∧ decode 0b11011100 = .cpy .abx ∧
    decode 0b11100100 = .cpx .zp := by
  decide

/-- R170 to R177: the pattern `aaabbb10` of each mnemonic, ILL columns 4 and 6 among them (R178). -/
theorem decode_family10_words :
    decode 0b00001010 = .asl .acc ∧ decode 0b00110010 = .rol .ill4 ∧ decode 0b01000110 = .lsr .zp ∧
    decode 0b01111010 = .ror .ill6 ∧ decode 0b10010110 = .stx .zpx ∧ decode 0b10111110 = .ldx .abx ∧
    decode 0b11000010 = .dec .imm ∧ decode 0b11101110 = .inc .abs := by
  decide

/-- R166, R180: Unknown bytes of family 00 and family 11. -/
theorem decode_unknown_words :
    decode 0b00000100 = .unknown 0x04 ∧ decode 0b00001100 = .unknown 0x0C ∧ decode 0b00010100 = .unknown 0x14 ∧
    decode 0b00011100 = .unknown 0x1C ∧ decode 0b00000011 = .unknown 0x03 ∧ decode 0b11111111 = .unknown 0xFF := by
  decide

end Sys2Proof
end

