-- ==== Sys2Proof/Config.lean ====
section
/-!
DEFINITION. The implementation parameters of spec 00_scope.md R8 that a build fixes and the source leaves open:
the four sentinel texts (92 D2) and `ZPY_SUBST` (92 D6). State carries one value of this type and nothing ever writes it
(log 4), so a statement over all states holds for every choice of the parameters. `PC_W` and `ENUM_ENC` have no value
here: the model uses natural numbers and symbolic values, as R8 says (log 8, log 14).
-/

namespace Sys2Proof

/-- The parameters of R8. The defaults are the spec's (92 D2, D6). -/
structure Params where
  /-- `S_UNKNOWN_INSTR` -/
  unknownInstr : String := "???"
  /-- `S_UNKNOWN_OPERAND` -/
  unknownOperand : String := "???"
  /-- `S_TRUNC` -/
  truncated : String := "END"
  /-- `S_TERMINAL` -/
  terminal : String := ".END"
  /-- `ZPY_SUBST`: STX and LDX index by Y in family 10 (R70) -/
  zpySubst : Bool := false
  deriving DecidableEq, Repr

end Sys2Proof
end

