-- ==== Sys2Proof/Machine/State.lean ====
section
/-!
DEFINITION. The state of the decoder as plain data (spec 10_state.md R20 to R31), the record a step returns (R28), the
actions a caller takes (40_decoder_ops.md R90 to R95), the reasons a step can stop, and the state after reset (R31, R90).
-/

namespace Sys2Proof.Machine

/-- The ByteStream: cells at the addresses 0 to N-1, in that order. An address that is not listed is outside the
ByteStream and holds no byte (R21, R40; log 5). -/
abbrev Memory := List Host.Cell

/-- The status of a step (60_exceptions.md R190). -/
inductive Status where
  | ok | unknownOpcode | illegalMode | truncated | terminal
  deriving DecidableEq, Repr

/-- The `mode` field of a record, where there is one: a mode of R67, or the verdict `illegal` (R28). -/
inductive ModeField where
  | legal (md : Mode)
  | illegal
  deriving DecidableEq, Repr

/-- An assembled operand (R71). -/
inductive OperandValue where
  | byte (b1 : Byte)
  | half (w : Half)
  deriving DecidableEq, Repr

/-- `DecodedInstruction`, the output record of one DECODE_ONE (R28). `index` is the spec's field `at`. -/
structure Record where
  status : Status
  index : Nat
  opcode : Option Byte
  mnemonic : Option Mnemonic
  mode : Option ModeField
  operand : Option OperandValue
  advance : Nat
  text : String
  deriving DecidableEq, Repr

/-- What one DECODE_ONE lets be observed: its record and its read trace, the addresses it read in order (R45). -/
structure Emission where
  record : Record
  reads : List Nat
  deriving DecidableEq, Repr

/-- What a command returns: CONSTRUCT nothing (R90), DECODE_ONE a record (R92, R93), DECODE_ALL a list of them (R94),
PULL an `Item` or `End` (R95). -/
inductive Reply where
  | nothing
  | record (x : Emission)
  | records (xs : List Emission)
  | item (x : Emission)
  | endOfSequence
  deriving DecidableEq, Repr

/-- The commands that are defined only on a constructed decoder (70_reset_and_hazards.md R212). -/
inductive DecoderCommand where
  | decodeOne | decodeAll | pull
  deriving DecidableEq, Repr

/-- What a caller can do next: the four commands (R90 to R95), create a pull adapter (R95), do nothing (R207), or break one
of its obligations: two commands at once (70_reset_and_hazards.md R214), a change of the ByteStream (R215), or a command for
which it has constructed no decoder (R212, R213). -/
inductive CallerAction where
  | construct (bytes : List Byte) (start : Option Nat) (stop : Option Nat)
  | decodeOne
  | decodeAll
  | pull
  | newAdapter
  | idle
  | overlap
  | changeByte (a : Nat) (b : Byte)
  | beforeConstruct (c : DecoderCommand)
  deriving DecidableEq, Repr

/-- The reasons a step can stop with a fault. -/
inductive Fault where
  /-- Raised by `State.readByte`, and so by the fetch and by every meaning with an operand: a `MemRead` at `a` where R11
  and R42 define none, outside `[s, e)` or outside the ByteStream. Safe: the spec's machine never makes that read, and
  no state that meets `State.Inv` does (log 6). -/
  | memReadUndefined (a : Nat)
  deriving DecidableEq, Repr

/-- The reasons a step can be refused. -/
inductive Refusal where
  /-- Raised by an arm of `exec` whose instruction has no meaning yet; no arm is such an arm. Safe. -/
  | notModelled (mnemonic : String)
  /-- Raised by the action `overlap`: two commands to one instance at once (R214, 93 U1: "refuse"). Safe. -/
  | overlappingCommands
  /-- Raised by the action `changeByte`: the ByteStream changes while a decoder exists (R51, R215, 93 U2: "refuse"). Safe. -/
  | byteStreamChanged
  /-- Raised by the action `beforeConstruct`: DECODE_ONE, DECODE_ALL or PULL with no CONSTRUCT before it, so that there is no
  decoder for the command to act on (R212, 93 U5: "refuse"). Safe. -/
  | commandBeforeConstruct (c : DecoderCommand)
  deriving DecidableEq, Repr

/-- A constructed decoder with its pull adapter, its parameters and its caller (R20). -/
structure State where
  /-- the parameters of R8, never written (log 4) -/
  params : Params
  /-- `bytes[0..N-1]`; N is the number of cells (R21) -/
  mem : Memory
  /-- `s`, RANGE_START (R22) -/
  rangeStart : Nat
  /-- `e`, RANGE_END (R23) -/
  rangeEnd : Nat
  /-- the cursor (R24) -/
  pc : Nat
  /-- `t_done`, the pull adapter's bit (R95) -/
  tDone : Bool
  /-- the model's own: what the last command returned; no meaning reads it (R28; log 2) -/
  reply : Reply
  /-- the model's own: the caller's waiting actions, first one next (R214; log 3) -/
  pending : List CallerAction
  deriving DecidableEq, Repr

/-- After reset, which is CONSTRUCT (R210): the empty ByteStream with the default range (R31, R90 corner case `N = 0`)
and the default parameters (R8); log 1. -/
def State.reset : State where
  params := {}
  mem := []
  rangeStart := 0
  rangeEnd := 0
  pc := 0
  tDone := false
  reply := .nothing
  pending := []

end Sys2Proof.Machine
end

