-- ==== Sys2Proof/Machine/Ops.lean ====
section
/-!
DEFINITION. The named operations over the ByteStream, the range and the cursor (spec 20_memory.md R40 to R45,
10_state.md R24, R25). There is no write to the ByteStream (R41) and no exception to take or to return from (R196, R197):
every condition of R190 is a status in the record of its own step.
-/

namespace Sys2Proof.Machine

/-! ### The ByteStream -/

/-- The cells of a buffer whose first byte stands at `a`. -/
def Memory.ofBytesFrom : Nat → List Byte → Memory
  | _, [] => []
  | a, b :: bs => (a, b) :: Memory.ofBytesFrom (a + 1) bs

/-- The ByteStream that holds a caller's buffer: `bytes[i]` at address `i` (R21). -/
def Memory.ofBytes (bs : List Byte) : Memory := Memory.ofBytesFrom 0 bs

/-- The buffer a ByteStream holds. -/
def Memory.bytes (mem : Memory) : List Byte := mem.map Prod.snd

/-- `N`, the number of bytes (R8, R21). -/
def Memory.size (mem : Memory) : Nat := mem.length

/-- The byte at an address; `none` where the ByteStream has no such address. -/
def Memory.read : Memory → Nat → Option Byte
  | [], _ => none
  | (a, b) :: rest, x => if a = x then some b else Memory.read rest x

/-- The cells stand at `a`, `a + 1`, and so on. -/
def Memory.wfFrom : Nat → Memory → Bool
  | _, [] => true
  | a, (x, _) :: rest => x == a && Memory.wfFrom (a + 1) rest

/-- The canonical form: the cells stand at 0 to N-1, in rising order (R21, R47). -/
def Memory.wf (mem : Memory) : Bool := Memory.wfFrom 0 mem

/-- A buffer with `new` in place of its bytes from index `a` on, filled up with zeros where it is too short. No command
does this; `withFetchWord` stands for the caller's choice of another buffer. -/
def overwriteBytes (bs : List Byte) (a : Nat) (new : List Byte) : List Byte :=
  (bs ++ List.replicate (a - bs.length) 0).take a ++ new ++ bs.drop (a + new.length)

/-! ### Reading (R11, R42) -/

/-- `MemRead(a, 1)`: defined only for `s <= a < e` (R11), and for a byte the ByteStream has. -/
def State.readByte (s : State) (a : Nat) : Except Fault Byte :=
  if s.rangeStart ≤ a ∧ a < s.rangeEnd then
    match Memory.read s.mem a with
    | some b => .ok b
    | none => .error (.memReadUndefined a)
  else .error (.memReadUndefined a)

/-- `Ready` (R25); the decoder is `Exhausted` where this is false. -/
def State.ready (s : State) : Bool := decide (s.pc < s.rangeEnd)

/-! ### The outcome of a step -/

/-- `emit` (R11) together with the cursor's new value: the only two things a DECODE_ONE writes (R92). -/
def State.emit (s : State) (pc' : Nat) (x : Emission) : State :=
  { s with pc := pc', reply := .record x }

/-- Go on from a next state; a fault or a refusal stays as it is. -/
def andThen (o : Host.Outcome State Fault Refusal) (f : State → Host.Outcome State Fault Refusal) :
    Host.Outcome State Fault Refusal :=
  match o with
  | .next s => f s
  | .fault r => .fault r
  | .refused r => .refused r

/-- The emissions a reply carries, in order. -/
def Reply.emissions : Reply → List Emission
  | .nothing | .endOfSequence => []
  | .record x | .item x => [x]
  | .records xs => xs

end Sys2Proof.Machine
end

