-- ==== Sys2Proof/Machine/Flags.lean ====
section
/-!
DEFINITION. The status of a step (spec 60_exceptions.md R190, R191). The decoder has no flags and no condition codes (R27);
the status of a record is all that a step computes of that kind, and it is not state.
-/

namespace Sys2Proof.Machine

/-- The numeric code of a status on an output bus (R190). -/
def Status.code : Status → Nat
  | .ok => 0
  | .unknownOpcode => 1
  | .illegalMode => 2
  | .truncated => 3
  | .terminal => 4

/-- How a step at cursor `pc` with range end `e`, an opcode of class `c` and length `len` picks its status, in R191's
order of priority. -/
def pickStatus (pc e : Nat) (c : OpClass) (len : Nat) : Status :=
  if e ≤ pc then .terminal
  else
    match c with
    | .unknown => .unknownOpcode
    | .illegalMode _ => .illegalMode
    | .special _ _ | .generic _ _ => if e < pc + len then .truncated else .ok

end Sys2Proof.Machine
end

