-- ==== Sys2Proof/Machine/Operands.lean ====
section
/-!
DEFINITION. Every operand form: which bytes a mode reads and how they are assembled (spec 30_encoding.md R67, R71), and how
operands, mnemonics and whole steps are rendered (R67, R72, R80).
-/

namespace Sys2Proof.Machine

/-! ### Reading operand bytes (R71, R45) -/

/-- `w = b1 | (b2 << 8)`: little-endian, `b1` the byte at `pc+1` (R44, R71). -/
def assembleHalf (b1 b2 : Byte) : Half := b2 ++ b1

/-- An operand as it was read: its value, if the mode has one, and the addresses read, in order. -/
structure Fetched where
  value : Option OperandValue
  reads : List Nat
  deriving DecidableEq, Repr

/-- Read the operand bytes of an addressing mode, low byte first; nothing where there is no mode (R71, R45). -/
def fetchOperand (s : State) : Option Mode → Except Fault Fetched
  | none => .ok ⟨none, []⟩
  | some md =>
    match md.width with
    | 0 => .ok ⟨none, []⟩
    | 1 =>
      match s.readByte (s.pc + 1) with
      | .ok b1 => .ok ⟨some (.byte b1), [s.pc + 1]⟩
      | .error r => .error r
    | _ =>
      match s.readByte (s.pc + 1) with
      | .ok b1 =>
        match s.readByte (s.pc + 2) with
        | .ok b2 => .ok ⟨some (.half (assembleHalf b1 b2)), [s.pc + 1, s.pc + 2]⟩
        | .error r => .error r
      | .error r => .error r

/-! ### Hexadecimal digits (R72) -/

/-- `digit(d)` for `d` in 0 to 15. -/
def hexDigit (d : Nat) : Char := "0123456789ABCDEF".toList.getD d '0'

/-- `hex2(v)`: two uppercase digits, zero-padded. -/
def hex2 (v : Byte) : String :=
  String.ofList [hexDigit (v.extractLsb' 4 4).toNat, hexDigit (v.extractLsb' 0 4).toNat]

/-- `hex4(v)`: four uppercase digits, zero-padded. -/
def hex4 (v : Half) : String :=
  String.ofList [hexDigit (v.extractLsb' 12 4).toNat, hexDigit (v.extractLsb' 8 4).toNat,
    hexDigit (v.extractLsb' 4 4).toNat, hexDigit (v.extractLsb' 0 4).toNat]

/-! ### Rendering templates (R67) -/

/-- The digits of an operand: `hex2` of a byte, `hex4` of a 16-bit value. -/
def OperandValue.digits : OperandValue → String
  | .byte b1 => hex2 b1
  | .half w => hex4 w

/-- What a mode's template has before the digits. -/
def templateBefore : Mode → String
  | .imp => ""
  | .acc => "A"
  | .imm => "#$"
  | .izx | .izy => "($"
  | .zp | .zpx | .zpy | .abs | .abx | .aby | .rel => "$"

/-- What a mode's template has after the digits. -/
def templateAfter : Mode → String
  | .zpx | .abx => ",X"
  | .zpy | .aby => ",Y"
  | .izx => ",X)"
  | .izy => "),Y"
  | .imp | .acc | .imm | .zp | .abs | .rel => ""

/-- `operand_text(mode, b1, b2)` (R67). -/
def operandText (md : Mode) (v : Option OperandValue) : String :=
  match v with
  | none => templateBefore md
  | some x => templateBefore md ++ x.digits ++ templateAfter md

/-- A mnemonic's three uppercase letters (R80). -/
def mnemonicText : Mnemonic → String
  | .brk => "BRK" | .rti => "RTI" | .rts => "RTS" | .php => "PHP" | .plp => "PLP" | .pha => "PHA"
  | .pla => "PLA" | .tax => "TAX" | .txa => "TXA" | .tay => "TAY" | .tya => "TYA" | .tsx => "TSX"
  | .txs => "TXS" | .dex => "DEX" | .dey => "DEY" | .inx => "INX" | .iny => "INY" | .clc => "CLC"
  | .sec => "SEC" | .cli => "CLI" | .sei => "SEI" | .clv => "CLV" | .cld => "CLD" | .sed => "SED"
  | .nop => "NOP" | .bpl => "BPL" | .bmi => "BMI" | .bvc => "BVC" | .bvs => "BVS" | .bcc => "BCC"
  | .bcs => "BCS" | .bne => "BNE" | .beq => "BEQ" | .jsr => "JSR" | .ora => "ORA" | .and => "AND"
  | .eor => "EOR" | .adc => "ADC" | .sta => "STA" | .lda => "LDA" | .cmp => "CMP" | .sbc => "SBC"
  | .bit => "BIT" | .jmp => "JMP" | .sty => "STY" | .ldy => "LDY" | .cpy => "CPY" | .cpx => "CPX"
  | .asl => "ASL" | .rol => "ROL" | .lsr => "LSR" | .ror => "ROR" | .stx => "STX" | .ldx => "LDX"
  | .dec => "DEC" | .inc => "INC"

/-! ### The text of a step (R80) -/

/-- `text(class, trunc, b1, b2)`. The order of the tests is R80's: an implied mode renders the mnemonic alone, truncated
or not. -/
def stepText (p : Params) (c : OpClass) (trunc : Bool) (v : Option OperandValue) : String :=
  match c with
  | .unknown => p.unknownInstr
  | .illegalMode mn => mnemonicText mn ++ " " ++ p.unknownOperand
  | .special mn md | .generic mn md =>
    if md = .imp then mnemonicText mn
    else if trunc then mnemonicText mn ++ " " ++ p.truncated
    else mnemonicText mn ++ " " ++ operandText md v

/-- The `mode` field of a record (R82): `illegal` for IllegalMode, none for Unknown. -/
def modeField : OpClass → Option ModeField
  | .special _ md | .generic _ md => some (.legal md)
  | .illegalMode _ => some .illegal
  | .unknown => none

end Sys2Proof.Machine
end

