-- ==== Sys2Proof/Machine/DecodeStep.lean ====
section
/-!
DEFINITION. One DECODE_ONE after its opcode byte is known (spec 40_decoder_ops.md R92, R93): the shared operation that every
instruction's meaning calls with its own opcode byte and class. Its three outcomes are the terminal record, the
truncation clamp and the normal advance.
-/

namespace Sys2Proof.Machine

/-- The terminal record of DECODE_ONE in Exhausted (R93, R28, R82). -/
def terminalRecord (s : State) : Record where
  status := .terminal
  index := s.pc
  opcode := none
  mnemonic := none
  mode := none
  operand := none
  advance := 0
  text := s.params.terminal

/-- DECODE_ONE in Exhausted (R93): nothing is read, the cursor stays. -/
def State.terminalStep (s : State) : State := s.emit s.pc ⟨terminalRecord s, []⟩

/-- The record of a truncated step (R92): no operand, the advance runs to the range's end. -/
def truncatedRecord (op : Byte) (c : OpClass) (s : State) : Record where
  status := .truncated
  index := s.pc
  opcode := some op
  mnemonic := c.mnemonic
  mode := modeField c
  operand := none
  advance := s.rangeEnd - s.pc
  text := stepText s.params c true none

/-- The truncation clamp (R92, R194): only the opcode was read, and `pc <- e`. -/
def State.truncateStep (op : Byte) (c : OpClass) (s : State) : State :=
  s.emit s.rangeEnd ⟨truncatedRecord op c s, [s.pc]⟩

/-- The record of a step that fits (R92, R82). -/
def fittingRecord (op : Byte) (c : OpClass) (st : Status) (len : Nat) (v : Option OperandValue) (s : State) : Record where
  status := st
  index := s.pc
  opcode := some op
  mnemonic := c.mnemonic
  mode := modeField c
  operand := v
  advance := len
  text := stepText s.params c false v

/-- The normal advance (R92): `pc <- pc + LEN[op]`, after the opcode and the operand bytes were read. -/
def State.advanceStep (op : Byte) (c : OpClass) (st : Status) (len : Nat) (f : Fetched) (s : State) : State :=
  s.emit (s.pc + len) ⟨fittingRecord op c st len f.value s, s.pc :: f.reads⟩

/-- DECODE_ONE for the opcode byte `op` of class `c` (R92, R93), its branch chosen by the status of R191. -/
def decodeAs (op : Byte) (c : OpClass) (s : State) : Host.Outcome State Fault Refusal :=
  match pickStatus s.pc s.rangeEnd c (lengthRom op) with
  | .terminal => .next s.terminalStep
  | .truncated => .next (s.truncateStep op c)
  | .ok =>
    match fetchOperand s c.mode with
    | .ok f => .next (s.advanceStep op c .ok (lengthRom op) f)
    | .error r => .fault r
  | .unknownOpcode => .next (s.advanceStep op c .unknownOpcode (lengthRom op) ⟨none, []⟩)
  | .illegalMode => .next (s.advanceStep op c .illegalMode (lengthRom op) ⟨none, []⟩)

end Sys2Proof.Machine
end

