-- ==== Sys2Proof/Machine/Family00.lean ====
section
/-!
DEFINITION. The meanings of the family 00 instructions (spec 43_family00.md R160 to R165), with the modes of MODE_00 (R68).
0x6C is JMP with the absolute mode, the same form as 0x4C (R68, R161).
-/

namespace Sys2Proof.Machine

/-- The class of a family 00 opcode: its column's mode; the ILL columns reach no family 00 instruction (R68). -/
def class00 (mn : Mnemonic) (m : Mode00) : OpClass :=
  .generic mn <|
    match m with
    | .imm => .imm
    | .zp => .zp
    | .abs => .abs
    | .zpx => .zpx
    | .abx => .abx

/-- BIT (R160). -/
def execBit (m : Mode00) (s : State) : Host.Outcome State Fault Refusal :=
  decodeAs (encode (.bit m)) (class00 .bit m) s

/-- JMP (R161), at instruction index 2 or 3; no target is followed. -/
def execJmp (i : JmpIndex) (m : Mode00) (s : State) : Host.Outcome State Fault Refusal :=
  decodeAs (encode (.jmp i m)) (class00 .jmp m) s

/-- STY (R162). -/
def execSty (m : Mode00) (s : State) : Host.Outcome State Fault Refusal :=
  decodeAs (encode (.sty m)) (class00 .sty m) s

/-- LDY (R163). -/
def execLdy (m : Mode00) (s : State) : Host.Outcome State Fault Refusal :=
  decodeAs (encode (.ldy m)) (class00 .ldy m) s

/-- CPY (R164). -/
def execCpy (m : Mode00) (s : State) : Host.Outcome State Fault Refusal :=
  decodeAs (encode (.cpy m)) (class00 .cpy m) s

/-- CPX (R165). -/
def execCpx (m : Mode00) (s : State) : Host.Outcome State Fault Refusal :=
  decodeAs (encode (.cpx m)) (class00 .cpx m) s

end Sys2Proof.Machine
end

