-- ==== Sys2Proof/Machine/Family01.lean ====
section
/-!
DEFINITION. The meanings of the family 01 instructions (spec 42_family01.md R150 to R157), with the modes of MODE_01 (R69).
-/

namespace Sys2Proof.Machine

/-- The class of a family 01 opcode: its column's mode, always legal (R69). -/
def class01 (mn : Mnemonic) (m : Mode01) : OpClass :=
  .generic mn <|
    match m with
    | .izx => .izx
    | .zp => .zp
    | .imm => .imm
    | .abs => .abs
    | .izy => .izy
    | .zpx => .zpx
    | .aby => .aby
    | .abx => .abx

/-- ORA (R150). -/
def execOra (m : Mode01) (s : State) : Host.Outcome State Fault Refusal :=
  decodeAs (encode (.ora m)) (class01 .ora m) s

/-- AND (R151). -/
def execAnd (m : Mode01) (s : State) : Host.Outcome State Fault Refusal :=
  decodeAs (encode (.and m)) (class01 .and m) s

/-- EOR (R152). -/
def execEor (m : Mode01) (s : State) : Host.Outcome State Fault Refusal :=
  decodeAs (encode (.eor m)) (class01 .eor m) s

/-- ADC (R153). -/
def execAdc (m : Mode01) (s : State) : Host.Outcome State Fault Refusal :=
  decodeAs (encode (.adc m)) (class01 .adc m) s

/-- STA (R154). -/
def execSta (m : Mode01) (s : State) : Host.Outcome State Fault Refusal :=
  decodeAs (encode (.sta m)) (class01 .sta m) s

/-- LDA (R155). -/
def execLda (m : Mode01) (s : State) : Host.Outcome State Fault Refusal :=
  decodeAs (encode (.lda m)) (class01 .lda m) s

/-- CMP (R156). -/
def execCmp (m : Mode01) (s : State) : Host.Outcome State Fault Refusal :=
  decodeAs (encode (.cmp m)) (class01 .cmp m) s

/-- SBC (R157). -/
def execSbc (m : Mode01) (s : State) : Host.Outcome State Fault Refusal :=
  decodeAs (encode (.sbc m)) (class01 .sbc m) s

end Sys2Proof.Machine
end

