-- ==== Sys2Proof/Machine/Family10.lean ====
section
/-!
DEFINITION. The meanings of the family 10 instructions (spec 44_family10.md R170 to R178), with the modes of MODE_10 and the
substitution of `ZPY_SUBST` (R70). An ILL column is the IllegalMode class: the mnemonic, the unknown-operand sentinel, length 1.
-/

namespace Sys2Proof.Machine

/-- The column's entry in `MODE_10`; `none` is the verdict ILL (R70). -/
def columnMode10 : Mode10 → Option Mode
  | .imm => some .imm
  | .zp => some .zp
  | .acc => some .acc
  | .abs => some .abs
  | .zpx => some .zpx
  | .abx => some .abx
  | .ill4 | .ill6 => none

/-- `resolve` for family 10 (R70): with `ZPY_SUBST`, STX and LDX index by Y in column 5, and LDX in column 7. -/
def resolve10 (zpySubst : Bool) (mn : Mnemonic) (m : Mode10) : Option Mode :=
  if zpySubst && (mn == .stx || mn == .ldx) && m == .zpx then some .zpy
  else if zpySubst && mn == .ldx && m == .abx then some .aby
  else columnMode10 m

/-- The class of a family 10 opcode under the decoder's parameters (R62). -/
def class10 (p : Params) (mn : Mnemonic) (m : Mode10) : OpClass :=
  match resolve10 p.zpySubst mn m with
  | some md => .generic mn md
  | none => .illegalMode mn

/-- ASL (R170, R178). -/
def execAsl (m : Mode10) (s : State) : Host.Outcome State Fault Refusal :=
  decodeAs (encode (.asl m)) (class10 s.params .asl m) s

/-- ROL (R171, R178). -/
def execRol (m : Mode10) (s : State) : Host.Outcome State Fault Refusal :=
  decodeAs (encode (.rol m)) (class10 s.params .rol m) s

/-- LSR (R172, R178). -/
def execLsr (m : Mode10) (s : State) : Host.Outcome State Fault Refusal :=
  decodeAs (encode (.lsr m)) (class10 s.params .lsr m) s

/-- ROR (R173, R178). -/
def execRor (m : Mode10) (s : State) : Host.Outcome State Fault Refusal :=
  decodeAs (encode (.ror m)) (class10 s.params .ror m) s

/-- STX (R174, R178). -/
def execStx (m : Mode10) (s : State) : Host.Outcome State Fault Refusal :=
  decodeAs (encode (.stx m)) (class10 s.params .stx m) s

/-- LDX (R175, R178). -/
def execLdx (m : Mode10) (s : State) : Host.Outcome State Fault Refusal :=
  decodeAs (encode (.ldx m)) (class10 s.params .ldx m) s

/-- DEC (R176, R178). -/
def execDec (m : Mode10) (s : State) : Host.Outcome State Fault Refusal :=
  decodeAs (encode (.dec m)) (class10 s.params .dec m) s

/-- INC (R177, R178). -/
def execInc (m : Mode10) (s : State) : Host.Outcome State Fault Refusal :=
  decodeAs (encode (.inc m)) (class10 s.params .inc m) s

end Sys2Proof.Machine
end

