-- ==== Sys2Proof/Machine/Family11.lean ====
section
/-!
DEFINITION. The meaning of the Unknown class: every family 11 byte (spec 45_family11.md R180, R181) and the four bytes of
family 00 index 0 that the special table leaves (43_family00.md R166).
-/

namespace Sys2Proof.Machine

/-- An Unknown opcode byte (R166, R180): the unknown-instruction sentinel, length 1, and decoding goes on. -/
def execUnknown (op : Byte) (s : State) : Host.Outcome State Fault Refusal :=
  decodeAs (encode (.unknown op)) .unknown s

end Sys2Proof.Machine
end

