-- ==== Sys2Proof/Machine/Special.lean ====
section
/-!
DEFINITION. The meanings of the 34 special-table instructions (spec 41_special.md R110 to R143). The decoder executes none
of them: each is decoded, rendered and stepped over (R100), by the shared operation of R92.
-/

namespace Sys2Proof.Machine

/-- BRK (R110): length 2, the padding byte is never read. -/
def execBrk (s : State) : Host.Outcome State Fault Refusal :=
  decodeAs (encode .brk) (.special .brk .imp) s

/-- RTI (R111). -/
def execRti (s : State) : Host.Outcome State Fault Refusal :=
  decodeAs (encode .rti) (.special .rti .imp) s

/-- RTS (R112). -/
def execRts (s : State) : Host.Outcome State Fault Refusal :=
  decodeAs (encode .rts) (.special .rts .imp) s

/-- PHP (R113). -/
def execPhp (s : State) : Host.Outcome State Fault Refusal :=
  decodeAs (encode .php) (.special .php .imp) s

/-- PLP (R114). -/
def execPlp (s : State) : Host.Outcome State Fault Refusal :=
  decodeAs (encode .plp) (.special .plp .imp) s

/-- PHA (R115). -/
def execPha (s : State) : Host.Outcome State Fault Refusal :=
  decodeAs (encode .pha) (.special .pha .imp) s

/-- PLA (R116). -/
def execPla (s : State) : Host.Outcome State Fault Refusal :=
  decodeAs (encode .pla) (.special .pla .imp) s

/-- TAX (R117). -/
def execTax (s : State) : Host.Outcome State Fault Refusal :=
  decodeAs (encode .tax) (.special .tax .imp) s

/-- TXA (R118). -/
def execTxa (s : State) : Host.Outcome State Fault Refusal :=
  decodeAs (encode .txa) (.special .txa .imp) s

/-- TAY (R119). -/
def execTay (s : State) : Host.Outcome State Fault Refusal :=
  decodeAs (encode .tay) (.special .tay .imp) s

/-- TYA (R120). -/
def execTya (s : State) : Host.Outcome State Fault Refusal :=
  decodeAs (encode .tya) (.special .tya .imp) s

/-- TSX (R121). -/
def execTsx (s : State) : Host.Outcome State Fault Refusal :=
  decodeAs (encode .tsx) (.special .tsx .imp) s

/-- TXS (R122). -/
def execTxs (s : State) : Host.Outcome State Fault Refusal :=
  decodeAs (encode .txs) (.special .txs .imp) s

/-- DEX (R123). -/
def execDex (s : State) : Host.Outcome State Fault Refusal :=
  decodeAs (encode .dex) (.special .dex .imp) s

/-- DEY (R124). -/
def execDey (s : State) : Host.Outcome State Fault Refusal :=
  decodeAs (encode .dey) (.special .dey .imp) s

/-- INX (R125). -/
def execInx (s : State) : Host.Outcome State Fault Refusal :=
  decodeAs (encode .inx) (.special .inx .imp) s

/-- INY (R126). -/
def execIny (s : State) : Host.Outcome State Fault Refusal :=
  decodeAs (encode .iny) (.special .iny .imp) s

/-- CLC (R127). -/
def execClc (s : State) : Host.Outcome State Fault Refusal :=
  decodeAs (encode .clc) (.special .clc .imp) s

/-- SEC (R128). -/
def execSec (s : State) : Host.Outcome State Fault Refusal :=
  decodeAs (encode .sec) (.special .sec .imp) s

/-- CLI (R129). -/
def execCli (s : State) : Host.Outcome State Fault Refusal :=
  decodeAs (encode .cli) (.special .cli .imp) s

/-- SEI (R130). -/
def execSei (s : State) : Host.Outcome State Fault Refusal :=
  decodeAs (encode .sei) (.special .sei .imp) s

/-- CLV (R131). -/
def execClv (s : State) : Host.Outcome State Fault Refusal :=
  decodeAs (encode .clv) (.special .clv .imp) s

/-- CLD (R132). -/
def execCld (s : State) : Host.Outcome State Fault Refusal :=
  decodeAs (encode .cld) (.special .cld .imp) s

/-- SED (R133). -/
def execSed (s : State) : Host.Outcome State Fault Refusal :=
  decodeAs (encode .sed) (.special .sed .imp) s

/-- NOP (R134). -/
def execNop (s : State) : Host.Outcome State Fault Refusal :=
  decodeAs (encode .nop) (.special .nop .imp) s

/-- BPL (R135): the raw offset byte; no target is computed. -/
def execBpl (s : State) : Host.Outcome State Fault Refusal :=
  decodeAs (encode .bpl) (.special .bpl .rel) s

/-- BMI (R136): the raw offset byte; no target is computed. -/
def execBmi (s : State) : Host.Outcome State Fault Refusal :=
  decodeAs (encode .bmi) (.special .bmi .rel) s

/-- BVC (R137): the raw offset byte; no target is computed. -/
def execBvc (s : State) : Host.Outcome State Fault Refusal :=
  decodeAs (encode .bvc) (.special .bvc .rel) s

/-- BVS (R138): the raw offset byte; no target is computed. -/
def execBvs (s : State) : Host.Outcome State Fault Refusal :=
  decodeAs (encode .bvs) (.special .bvs .rel) s

/-- BCC (R139): the raw offset byte; no target is computed. -/
def execBcc (s : State) : Host.Outcome State Fault Refusal :=
  decodeAs (encode .bcc) (.special .bcc .rel) s

/-- BCS (R140): the raw offset byte; no target is computed. -/
def execBcs (s : State) : Host.Outcome State Fault Refusal :=
  decodeAs (encode .bcs) (.special .bcs .rel) s

/-- BNE (R141): the raw offset byte; no target is computed. -/
def execBne (s : State) : Host.Outcome State Fault Refusal :=
  decodeAs (encode .bne) (.special .bne .rel) s

/-- BEQ (R142): the raw offset byte; no target is computed. -/
def execBeq (s : State) : Host.Outcome State Fault Refusal :=
  decodeAs (encode .beq) (.special .beq .rel) s

/-- JSR (R143): a little-endian 16-bit operand; no target is followed. -/
def execJsr (s : State) : Host.Outcome State Fault Refusal :=
  decodeAs (encode .jsr) (.special .jsr .abs) s

end Sys2Proof.Machine
end

