-- ==== Sys2Proof/Machine/Dispatch.lean ====
section
/-! DEFINITION. One arm per constructor of `Instr`: the direct call of its meaning. -/

namespace Sys2Proof.Machine

def exec (i : Instr) (s : State) : Host.Outcome State Fault Refusal :=
  match i with
  | .brk => Sys2Proof.Machine.execBrk s
  | .rti => Sys2Proof.Machine.execRti s
  | .rts => Sys2Proof.Machine.execRts s
  | .php => Sys2Proof.Machine.execPhp s
  | .plp => Sys2Proof.Machine.execPlp s
  | .pha => Sys2Proof.Machine.execPha s
  | .pla => Sys2Proof.Machine.execPla s
  | .tax => Sys2Proof.Machine.execTax s
  | .txa => Sys2Proof.Machine.execTxa s
  | .tay => Sys2Proof.Machine.execTay s
  | .tya => Sys2Proof.Machine.execTya s
  | .tsx => Sys2Proof.Machine.execTsx s
  | .txs => Sys2Proof.Machine.execTxs s
  | .dex => Sys2Proof.Machine.execDex s
  | .dey => Sys2Proof.Machine.execDey s
  | .inx => Sys2Proof.Machine.execInx s
  | .iny => Sys2Proof.Machine.execIny s
  | .clc => Sys2Proof.Machine.execClc s
  | .sec => Sys2Proof.Machine.execSec s
  | .cli => Sys2Proof.Machine.execCli s
  | .sei => Sys2Proof.Machine.execSei s
  | .clv => Sys2Proof.Machine.execClv s
  | .cld => Sys2Proof.Machine.execCld s
  | .sed => Sys2Proof.Machine.execSed s
  | .nop => Sys2Proof.Machine.execNop s
  | .bpl => Sys2Proof.Machine.execBpl s
  | .bmi => Sys2Proof.Machine.execBmi s
  | .bvc => Sys2Proof.Machine.execBvc s
  | .bvs => Sys2Proof.Machine.execBvs s
  | .bcc => Sys2Proof.Machine.execBcc s
  | .bcs => Sys2Proof.Machine.execBcs s
  | .bne => Sys2Proof.Machine.execBne s
  | .beq => Sys2Proof.Machine.execBeq s
  | .jsr => Sys2Proof.Machine.execJsr s
  | .ora m => Sys2Proof.Machine.execOra m s
  | .and m => Sys2Proof.Machine.execAnd m s
  | .eor m => Sys2Proof.Machine.execEor m s
  | .adc m => Sys2Proof.Machine.execAdc m s
  | .sta m => Sys2Proof.Machine.execSta m s
  | .lda m => Sys2Proof.Machine.execLda m s
  | .cmp m => Sys2Proof.Machine.execCmp m s
  | .sbc m => Sys2Proof.Machine.execSbc m s
  | .bit m => Sys2Proof.Machine.execBit m s
  | .jmp k m => Sys2Proof.Machine.execJmp k m s
  | .sty m => Sys2Proof.Machine.execSty m s
  | .ldy m => Sys2Proof.Machine.execLdy m s
  | .cpy m => Sys2Proof.Machine.execCpy m s
  | .cpx m => Sys2Proof.Machine.execCpx m s
  | .asl m => Sys2Proof.Machine.execAsl m s
  | .rol m => Sys2Proof.Machine.execRol m s
  | .lsr m => Sys2Proof.Machine.execLsr m s
  | .ror m => Sys2Proof.Machine.execRor m s
  | .stx m => Sys2Proof.Machine.execStx m s
  | .ldx m => Sys2Proof.Machine.execLdx m s
  | .dec m => Sys2Proof.Machine.execDec m s
  | .inc m => Sys2Proof.Machine.execInc m s
  | .unknown op => Sys2Proof.Machine.execUnknown op s

end Sys2Proof.Machine
end

