-- ==== Sys2Proof/Machine/Commands.lean ====
section
/-!
DEFINITION. The commands of the decoder (spec 40_decoder_ops.md R90 to R95) and the caller's other actions. Each is one atomic
transition (R7, R214). DECODE_ALL and PULL reach the cursor only through DECODE_ONE (R20).
-/

namespace Sys2Proof.Machine

/-- CONSTRUCT, the decoder's reset (R90, R210): `s = min(start, N)`, `e = max(s, min(end, N))`, `pc = s`. It reads nothing
and returns no record. The new decoder's pull adapter starts with `t_done` false (R95; log 9). -/
def constructDecoder (bytes : List Byte) (start stop : Option Nat) (s : State) : State :=
  let n := bytes.length
  let first := min (start.getD 0) n
  { s with
    mem := Memory.ofBytes bytes
    rangeStart := first
    rangeEnd := max first (min (stop.getD n) n)
    pc := first
    tDone := false
    reply := .nothing }

/-- DECODE_ONE (R91): in Ready the opcode at `pc` is read and its instruction runs (R92); in Exhausted the terminal record
is returned (R93). -/
def decodeOne (s : State) : Host.Outcome State Fault Refusal :=
  if s.ready then
    match s.readByte s.pc with
    | .ok op => exec (decode op) s
    | .error r => .fault r
  else .next s.terminalStep

/-- The last DECODE_ONE of DECODE_ALL, which returns the one terminal record after the records collected so far (R94). -/
def decodeAllFinish (acc : List Emission) (s : State) : Host.Outcome State Fault Refusal :=
  andThen (decodeOne s) fun t => .next { t with reply := .records (acc ++ t.reply.emissions) }

/-- The loop of DECODE_ALL (R94), with the records collected so far. The number bounds its rounds: each round raises the
cursor, so the bytes left in the range are enough of them (R96). -/
def decodeAllLoop : Nat → List Emission → State → Host.Outcome State Fault Refusal
  | 0, acc, s => decodeAllFinish acc s
  | k + 1, acc, s =>
    if s.ready then andThen (decodeOne s) fun t => decodeAllLoop k (acc ++ t.reply.emissions) t
    else decodeAllFinish acc s

/-- DECODE_ALL (R94), from the current cursor to the range's end. -/
def decodeAll (s : State) : Host.Outcome State Fault Refusal :=
  decodeAllLoop (s.rangeEnd - s.pc) [] s

/-- PULL hands on DECODE_ONE's record as an `Item` (R95). -/
def Reply.asItem : Reply → Reply
  | .record x => .item x
  | r => r

/-- The reply ends with a TERMINAL record. -/
def Reply.isTerminal (r : Reply) : Bool :=
  r.emissions.any fun x => x.record.status == .terminal

/-- PULL (R95): `End` once the terminal record was handed out, else one DECODE_ONE. -/
def pull (s : State) : Host.Outcome State Fault Refusal :=
  if s.tDone then .next { s with reply := .endOfSequence }
  else
    andThen (decodeOne s) fun t =>
      .next { t with reply := t.reply.asItem, tDone := t.reply.isTerminal }

/-- One action of the caller. Nothing happens between commands (R207); two commands at once, a change of the ByteStream, and a
command before CONSTRUCT are refused (R214, R51, R212; 93 U1, U2 and U5). -/
def perform (c : CallerAction) (s : State) : Host.Outcome State Fault Refusal :=
  match c with
  | .construct bytes start stop => .next (constructDecoder bytes start stop s)
  | .decodeOne => decodeOne s
  | .decodeAll => decodeAll s
  | .pull => pull s
  | .newAdapter => .next { s with tDone := false }
  | .idle => .next s
  | .overlap => .refused .overlappingCommands
  | .changeByte _ _ => .refused .byteStreamChanged
  | .beforeConstruct command => .refused (.commandBeforeConstruct command)

/-- The caller's next action: its first waiting one, or a DECODE_ONE where none waits (log 3). -/
def callerStep (s : State) : Host.Outcome State Fault Refusal :=
  match s.pending with
  | [] => decodeOne s
  | c :: rest => perform c { s with pending := rest }

/-- The state with a table word's instruction where the next step fetches: in the ByteStream at the cursor, the range and
the ByteStream made long enough to hold it, and no other action waiting before the DECODE_ONE that runs it (log 1). -/
def placeFetchWord (s : State) (nbits w : Nat) : State :=
  { s with
    mem := Memory.ofBytes (overwriteBytes (Memory.bytes s.mem) s.pc (tableBytes nbits w))
    rangeStart := min s.rangeStart s.pc
    rangeEnd := max s.rangeEnd (s.pc + 3)
    pending := [] }

end Sys2Proof.Machine
end

