-- ==== Sys2Proof/Machine/Step.lean ====
section
/-! DEFINITION. One step of the machine: the caller's next action (spec 40_decoder_ops.md R90 to R95). -/

namespace Sys2Proof.Machine

/-- One step: one command, which is one atomic transition (R7). -/
def step (s : State) : Host.Outcome State Fault Refusal := callerStep s

/-- `s` with the instruction of a table word where `step` fetches its next one. -/
def State.withFetchWord (s : State) (nbits w : Nat) : State := placeFetchWord s nbits w

end Sys2Proof.Machine
end

