-- ==== Sys2Proof/Safety.lean ====
section
/-!
DEFINITION. What a good state and a safe run are, in the terms the statements use (spec 10_state.md R20 to R24, 20_memory.md
R42). A safe run has no fault: the spec's machine raises none (R54, R196).
-/

namespace Sys2Proof.Machine

/-- The invariant of a constructed decoder: the ByteStream is in its canonical form (R21, R47), and `s <= pc <= e <= N`
(R20, R22 to R24). -/
abbrev State.Inv (s : State) : Prop :=
  Memory.wf s.mem = true ∧ s.rangeStart ≤ s.pc ∧ s.pc ≤ s.rangeEnd ∧ s.rangeEnd ≤ Memory.size s.mem

/-- An emission stays inside a range: every address read lies in `[lo, hi)` (R42), the step's bytes too, and the cursor
moves by at most 3 (R28). -/
abbrev Emission.Within (lo hi : Nat) (x : Emission) : Prop :=
  (∀ a ∈ x.reads, lo ≤ a ∧ a < hi) ∧ lo ≤ x.record.index ∧ x.record.index + x.record.advance ≤ hi ∧ x.record.advance ≤ 3

/-- Everything the last command returned stays inside the decoder's range. -/
abbrev State.ReplyWithin (s : State) : Prop :=
  ∀ x ∈ s.reply.emissions, Emission.Within s.rangeStart s.rangeEnd x

/-- The action keeps the caller's obligations of R212, R214 and R215. -/
def CallerAction.lawful : CallerAction → Bool
  | .overlap | .changeByte _ _ | .beforeConstruct _ => false
  | .construct _ _ _ | .decodeOne | .decodeAll | .pull | .newAdapter | .idle => true

/-- The action the next step takes: the caller's first waiting one, else a DECODE_ONE (log 3). -/
def State.nextAction (s : State) : CallerAction := s.pending.headD .decodeOne

/-- The state once the caller's next action has left the waiting list. -/
def State.taken (s : State) : State := { s with pending := s.pending.tail }

end Sys2Proof.Machine
end

