-- ==== Sys2Proof/Certificates/Slice0/Obligations.lean ====
section
/-!
DEFINITION. The statements for the provers. Tables and texts that a statement compares the model with are written here from the
spec's own tables, not taken from the model's definitions.
-/

namespace Sys2Proof.Claims

open Sys2Proof.Machine

/-! ### The opcode map of R77, cell by cell -/

/-- One cell of R77: `???`, a mnemonic with ILL, or a mnemonic with a mode. -/
inductive MapCell where
  | u
  | i (mn : Mnemonic)
  | c (mn : Mnemonic) (md : Mode)
  deriving DecidableEq, Repr

/-- R77, rows 0x to 3x. -/
def opcodeMap0 : List (List MapCell) := [
  [.c .brk .imp, .c .ora .izx, .c .asl .imm, .u, .u, .c .ora .zp, .c .asl .zp, .u,
    .c .php .imp, .c .ora .imm, .c .asl .acc, .u, .u, .c .ora .abs, .c .asl .abs, .u],
  [.c .bpl .rel, .c .ora .izy, .i .asl, .u, .u, .c .ora .zpx, .c .asl .zpx, .u,
    .c .clc .imp, .c .ora .aby, .i .asl, .u, .u, .c .ora .abx, .c .asl .abx, .u],
  [.c .jsr .abs, .c .and .izx, .c .rol .imm, .u, .c .bit .zp, .c .and .zp, .c .rol .zp, .u,
    .c .plp .imp, .c .and .imm, .c .rol .acc, .u, .c .bit .abs, .c .and .abs, .c .rol .abs, .u],
  [.c .bmi .rel, .c .and .izy, .i .rol, .u, .c .bit .zpx, .c .and .zpx, .c .rol .zpx, .u,
    .c .sec .imp, .c .and .aby, .i .rol, .u, .c .bit .abx, .c .and .abx, .c .rol .abx, .u]]

/-- R77, rows 4x to 7x. -/
def opcodeMap1 : List (List MapCell) := [
  [.c .rti .imp, .c .eor .izx, .c .lsr .imm, .u, .c .jmp .zp, .c .eor .zp, .c .lsr .zp, .u,
    .c .pha .imp, .c .eor .imm, .c .lsr .acc, .u, .c .jmp .abs, .c .eor .abs, .c .lsr .abs, .u],
  [.c .bvc .rel, .c .eor .izy, .i .lsr, .u, .c .jmp .zpx, .c .eor .zpx, .c .lsr .zpx, .u,
    .c .cli .imp, .c .eor .aby, .i .lsr, .u, .c .jmp .abx, .c .eor .abx, .c .lsr .abx, .u],
  [.c .rts .imp, .c .adc .izx, .c .ror .imm, .u, .c .jmp .zp, .c .adc .zp, .c .ror .zp, .u,
    .c .pla .imp, .c .adc .imm, .c .ror .acc, .u, .c .jmp .abs, .c .adc .abs, .c .ror .abs, .u],
  [.c .bvs .rel, .c .adc .izy, .i .ror, .u, .c .jmp .zpx, .c .adc .zpx, .c .ror .zpx, .u,
    .c .sei .imp, .c .adc .aby, .i .ror, .u, .c .jmp .abx, .c .adc .abx, .c .ror .abx, .u]]

/-- R77, rows 8x to Bx. -/
def opcodeMap2 : List (List MapCell) := [
  [.c .sty .imm, .c .sta .izx, .c .stx .imm, .u, .c .sty .zp, .c .sta .zp, .c .stx .zp, .u,
    .c .dey .imp, .c .sta .imm, .c .txa .imp, .u, .c .sty .abs, .c .sta .abs, .c .stx .abs, .u],
  [.c .bcc .rel, .c .sta .izy, .i .stx, .u, .c .sty .zpx, .c .sta .zpx, .c .stx .zpx, .u,
    .c .tya .imp, .c .sta .aby, .c .txs .imp, .u, .c .sty .abx, .c .sta .abx, .c .stx .abx, .u],
  [.c .ldy .imm, .c .lda .izx, .c .ldx .imm, .u, .c .ldy .zp, .c .lda .zp, .c .ldx .zp, .u,
    .c .tay .imp, .c .lda .imm, .c .tax .imp, .u, .c .ldy .abs, .c .lda .abs, .c .ldx .abs, .u],
  [.c .bcs .rel, .c .lda .izy, .i .ldx, .u, .c .ldy .zpx, .c .lda .zpx, .c .ldx .zpx, .u,
    .c .clv .imp, .c .lda .aby, .c .tsx .imp, .u, .c .ldy .abx, .c .lda .abx, .c .ldx .abx, .u]]

/-- R77, rows Cx to Fx. -/
def opcodeMap3 : List (List MapCell) := [
  [.c .cpy .imm, .c .cmp .izx, .c .dec .imm, .u, .c .cpy .zp, .c .cmp .zp, .c .dec .zp, .u,
    .c .iny .imp, .c .cmp .imm, .c .dex .imp, .u, .c .cpy .abs, .c .cmp .abs, .c .dec .abs, .u],
  [.c .bne .rel, .c .cmp .izy, .i .dec, .u, .c .cpy .zpx, .c .cmp .zpx, .c .dec .zpx, .u,
    .c .cld .imp, .c .cmp .aby, .i .dec, .u, .c .cpy .abx, .c .cmp .abx, .c .dec .abx, .u],
  [.c .cpx .imm, .c .sbc .izx, .c .inc .imm, .u, .c .cpx .zp, .c .sbc .zp, .c .inc .zp, .u,
    .c .inx .imp, .c .sbc .imm, .c .nop .imp, .u, .c .cpx .abs, .c .sbc .abs, .c .inc .abs, .u],
  [.c .beq .rel, .c .sbc .izy, .i .inc, .u, .c .cpx .zpx, .c .sbc .zpx, .c .inc .zpx, .u,
    .c .sed .imp, .c .sbc .aby, .i .inc, .u, .c .cpx .abx, .c .sbc .abx, .c .inc .abx, .u]]

/-- The cell of R77 for a byte. -/
def opcodeMapCell (op : Byte) : MapCell :=
  ((opcodeMap0 ++ opcodeMap1 ++ opcodeMap2 ++ opcodeMap3).getD (op.toNat / 16) []).getD (op.toNat % 16) .u

/-- How R77 prints a class: Special and Generic look alike. -/
def cellOfClass : OpClass → MapCell
  | .special mn md | .generic mn md => .c mn md
  | .illegalMode mn => .i mn
  | .unknown => .u

/-- R77 with `ZPY_SUBST`: three cells read otherwise when it is true. -/
def mapCellWith (zpySubst : Bool) (op : Byte) : MapCell :=
  if zpySubst = true ∧ op = 0x96 then .c .stx .zpy
  else if zpySubst = true ∧ op = 0xB6 then .c .ldx .zpy
  else if zpySubst = true ∧ op = 0xBE then .c .ldx .aby
  else opcodeMapCell op

/-- All 256 opcode bytes. -/
def allBytes : List Byte := (List.range 256).map (BitVec.ofNat 8)

/-- The number of bytes with a property. -/
def countBytes (p : Byte → Bool) : Nat := allBytes.countP p

/-- The four kinds of class, for counting. -/
inductive ClassKind where
  | special | generic | illegalMode | unknown
  deriving DecidableEq, Repr

/-- The kind of a class. -/
def kindOf : OpClass → ClassKind
  | .special _ _ => .special
  | .generic _ _ => .generic
  | .illegalMode _ => .illegalMode
  | .unknown => .unknown

/-! ### What a step that fits and a truncated step leave (R92, R28, R82) -/

/-- A step that fits: the cursor advances by the length and the record has status OK; nothing else changes. -/
def fitted (s : State) (len : Nat) (op : Byte) (mn : Mnemonic) (md : Mode) (v : Option OperandValue) (text : String)
    (reads : List Nat) : State :=
  { s with
    pc := s.pc + len
    reply := .record ⟨⟨.ok, s.pc, some op, some mn, some (.legal md), v, len, text⟩, reads⟩ }

/-- A truncated step: the cursor goes to the range's end, only the opcode was read; nothing else changes. -/
def cut (s : State) (op : Byte) (mn : Mnemonic) (md : Mode) (text : String) : State :=
  { s with
    pc := s.rangeEnd
    reply := .record ⟨⟨.truncated, s.pc, some op, some mn, some (.legal md), none, s.rangeEnd - s.pc, text⟩, [s.pc]⟩ }

/-- The terminal record of an Exhausted decoder (R93). -/
def terminalEmission (s : State) : Emission :=
  ⟨⟨.terminal, s.pc, none, none, none, none, 0, s.params.terminal⟩, []⟩

/-- The instruction with a mnemonic, where a step has fewer than `len` bytes left (R92, R194). -/
def CutShort (i : Instr) (op : Byte) (mn : Mnemonic) (name : String) (md : Mode) (len : Nat) (s : State) : Prop :=
  s.pc < s.rangeEnd → s.rangeEnd < s.pc + len →
    exec i s = .next (cut s op mn md (name ++ " " ++ s.params.truncated))

/-! ### The special table's rows (R110 to R143) -/

/-- One rule of 41_special.md: the instruction, its byte, mnemonic and letters, and the class the family tables alone
would give the byte ("Without the special table"). -/
structure SpecialSpec where
  instr : Instr
  opcode : Byte
  mnemonic : Mnemonic
  name : String
  without : OpClass

/-- What the rule says of the byte: its instruction, its class, its length, and the class without the special table. -/
def SpecialEncoding (r : SpecialSpec) (md : Mode) (len : Nat) : Prop :=
  encode r.instr = r.opcode ∧ decode r.opcode = r.instr ∧ lengthRom r.opcode = len ∧
    ∀ z : Bool, classify z r.opcode = .special r.mnemonic md ∧ familyClass z r.opcode = r.without

/-- A one-byte implied opcode: only the opcode is read, the text is the mnemonic, the status is OK in every Ready state. -/
def ImpliedRule (r : SpecialSpec) : Prop :=
  SpecialEncoding r .imp 1 ∧
    ∀ s : State, s.pc < s.rangeEnd →
      exec r.instr s = .next (fitted s 1 r.opcode r.mnemonic .imp none r.name [s.pc])

/-- A branch: one offset byte, rendered raw, or the truncation. -/
def BranchRule (r : SpecialSpec) : Prop :=
  SpecialEncoding r .rel 2 ∧
    ∀ s : State,
      (∀ b1 : Byte, s.pc + 2 ≤ s.rangeEnd → s.readByte (s.pc + 1) = .ok b1 →
        exec r.instr s =
          .next (fitted s 2 r.opcode r.mnemonic .rel (some (.byte b1)) (r.name ++ " " ++ ("$" ++ hex2 b1 ++ ""))
            [s.pc, s.pc + 1])) ∧
      CutShort r.instr r.opcode r.mnemonic r.name .rel 2 s

/-- R111 to R116. -/
def stackSpecials : List SpecialSpec := [
  ⟨.rti, 0x40, .rti, "RTI", .generic .jmp .imm⟩,
  ⟨.rts, 0x60, .rts, "RTS", .generic .jmp .imm⟩,
  ⟨.php, 0x08, .php, "PHP", .unknown⟩,
  ⟨.plp, 0x28, .plp, "PLP", .illegalMode .bit⟩,
  ⟨.pha, 0x48, .pha, "PHA", .illegalMode .jmp⟩,
  ⟨.pla, 0x68, .pla, "PLA", .illegalMode .jmp⟩]

/-- R117 to R126. -/
def transferSpecials : List SpecialSpec := [
  ⟨.tax, 0xAA, .tax, "TAX", .generic .ldx .acc⟩,
  ⟨.txa, 0x8A, .txa, "TXA", .generic .stx .acc⟩,
  ⟨.tay, 0xA8, .tay, "TAY", .illegalMode .ldy⟩,
  ⟨.tya, 0x98, .tya, "TYA", .illegalMode .sty⟩,
  ⟨.tsx, 0xBA, .tsx, "TSX", .illegalMode .ldx⟩,
  ⟨.txs, 0x9A, .txs, "TXS", .illegalMode .stx⟩,
  ⟨.dex, 0xCA, .dex, "DEX", .generic .dec .acc⟩,
  ⟨.dey, 0x88, .dey, "DEY", .illegalMode .sty⟩,
  ⟨.inx, 0xE8, .inx, "INX", .illegalMode .cpx⟩,
  ⟨.iny, 0xC8, .iny, "INY", .illegalMode .cpy⟩]

/-- R127 to R134. -/
def flagSpecials : List SpecialSpec := [
  ⟨.clc, 0x18, .clc, "CLC", .unknown⟩,
  ⟨.sec, 0x38, .sec, "SEC", .illegalMode .bit⟩,
  ⟨.cli, 0x58, .cli, "CLI", .illegalMode .jmp⟩,
  ⟨.sei, 0x78, .sei, "SEI", .illegalMode .jmp⟩,
  ⟨.clv, 0xB8, .clv, "CLV", .illegalMode .ldy⟩,
  ⟨.cld, 0xD8, .cld, "CLD", .illegalMode .cpy⟩,
  ⟨.sed, 0xF8, .sed, "SED", .illegalMode .cpx⟩,
  ⟨.nop, 0xEA, .nop, "NOP", .generic .inc .acc⟩]

/-- R135 to R142. -/
def branchSpecials : List SpecialSpec := [
  ⟨.bpl, 0x10, .bpl, "BPL", .unknown⟩,
  ⟨.bmi, 0x30, .bmi, "BMI", .illegalMode .bit⟩,
  ⟨.bvc, 0x50, .bvc, "BVC", .illegalMode .jmp⟩,
  ⟨.bvs, 0x70, .bvs, "BVS", .illegalMode .jmp⟩,
  ⟨.bcc, 0x90, .bcc, "BCC", .illegalMode .sty⟩,
  ⟨.bcs, 0xB0, .bcs, "BCS", .illegalMode .ldy⟩,
  ⟨.bne, 0xD0, .bne, "BNE", .illegalMode .cpy⟩,
  ⟨.beq, 0xF0, .beq, "BEQ", .illegalMode .cpx⟩]

/-! ### The family tables (R150 to R178) -/

/-- A row of R67: a mode, its width and what stands before and after the digits. -/
structure Form where
  mode : Mode
  width : Nat
  before : String
  after : String

def formImm : Form := ⟨.imm, 1, "#$", ""⟩
def formZp : Form := ⟨.zp, 1, "$", ""⟩
def formZpx : Form := ⟨.zpx, 1, "$", ",X"⟩
def formZpy : Form := ⟨.zpy, 1, "$", ",Y"⟩
def formAbs : Form := ⟨.abs, 2, "$", ""⟩
def formAbx : Form := ⟨.abx, 2, "$", ",X"⟩
def formAby : Form := ⟨.aby, 2, "$", ",Y"⟩
def formIzx : Form := ⟨.izx, 1, "($", ",X)"⟩
def formIzy : Form := ⟨.izy, 1, "($", "),Y"⟩
def formAcc : Form := ⟨.acc, 0, "A", ""⟩

/-- A step of the form that fits in the range: its operand bytes are read in order and rendered by its template. -/
def FormFits (i : Instr) (op : Byte) (mn : Mnemonic) (name : String) (f : Form) (s : State) : Prop :=
  match f.width with
  | 0 =>
    s.pc + 1 ≤ s.rangeEnd →
      exec i s = .next (fitted s 1 op mn f.mode none (name ++ " " ++ f.before) [s.pc])
  | 1 =>
    ∀ b1 : Byte, s.pc + 2 ≤ s.rangeEnd → s.readByte (s.pc + 1) = .ok b1 →
      exec i s =
        .next (fitted s 2 op mn f.mode (some (.byte b1)) (name ++ " " ++ (f.before ++ hex2 b1 ++ f.after))
          [s.pc, s.pc + 1])
  | _ =>
    ∀ b1 b2 : Byte, s.pc + 3 ≤ s.rangeEnd → s.readByte (s.pc + 1) = .ok b1 → s.readByte (s.pc + 2) = .ok b2 →
      exec i s =
        .next (fitted s 3 op mn f.mode (some (.half (assembleHalf b1 b2)))
          (name ++ " " ++ (f.before ++ hex4 (assembleHalf b1 b2) ++ f.after)) [s.pc, s.pc + 1, s.pc + 2])

/-- A row of a family rule's table: the byte `aaabbbcc` of `n = 32 i + 4 m + f`, its class, its length, the step that
fits and the truncated step. The form may depend on `ZPY_SUBST` (R70). -/
def FamilyRow (i : Instr) (n : Nat) (mn : Mnemonic) (name : String) (f : Bool → Form) : Prop :=
  encode i = BitVec.ofNat 8 n ∧ decode (BitVec.ofNat 8 n) = i ∧
    (∀ z : Bool, classify z (BitVec.ofNat 8 n) = .generic mn (f z).mode ∧
      lengthRom (BitVec.ofNat 8 n) = 1 + (f z).width) ∧
    ∀ s : State,
      FormFits i (BitVec.ofNat 8 n) mn name (f s.params.zpySubst) s ∧
      CutShort i (BitVec.ofNat 8 n) mn name (f s.params.zpySubst).mode (1 + (f s.params.zpySubst).width) s

/-- An ILL row (R178): length 1, the mnemonic with the unknown-operand sentinel, only the opcode read. -/
def IllegalRow (i : Instr) (n : Nat) (mn : Mnemonic) (name : String) : Prop :=
  encode i = BitVec.ofNat 8 n ∧ decode (BitVec.ofNat 8 n) = i ∧ lengthRom (BitVec.ofNat 8 n) = 1 ∧
    (∀ z : Bool, classify z (BitVec.ofNat 8 n) = .illegalMode mn) ∧
    ∀ s : State, s.pc < s.rangeEnd →
      exec i s =
        .next { s with
          pc := s.pc + 1
          reply := .record ⟨⟨.illegalMode, s.pc, some (BitVec.ofNat 8 n), some mn, some .illegal, none, 1,
            name ++ " " ++ s.params.unknownOperand⟩, [s.pc]⟩ }

/-- What a rule says of an Unknown byte: its class, its length, and in Ready the unknown-instruction sentinel with the opcode
as the only read. -/
def UnknownRow (op : Byte) : Prop :=
  (∀ z : Bool, classify z op = .unknown) ∧ specialRow? op = none ∧ decode op = .unknown op ∧ encode (.unknown op) = op ∧
    lengthRom op = 1 ∧
    ∀ s : State, s.pc < s.rangeEnd →
      exec (.unknown op) s =
        .next { s with
          pc := s.pc + 1
          reply := .record ⟨⟨.unknownOpcode, s.pc, some op, none, none, none, 1, s.params.unknownInstr⟩, [s.pc]⟩ }

/-- A family 01 rule: its 8 columns (R69) at instruction index `i`. -/
def Family01Rule (ctor : Mode01 → Instr) (i : Nat) (mn : Mnemonic) (name : String) : Prop :=
  FamilyRow (ctor .izx) (32 * i + 1) mn name (fun _ => formIzx) ∧
  FamilyRow (ctor .zp) (32 * i + 5) mn name (fun _ => formZp) ∧
  FamilyRow (ctor .imm) (32 * i + 9) mn name (fun _ => formImm) ∧
  FamilyRow (ctor .abs) (32 * i + 13) mn name (fun _ => formAbs) ∧
  FamilyRow (ctor .izy) (32 * i + 17) mn name (fun _ => formIzy) ∧
  FamilyRow (ctor .zpx) (32 * i + 21) mn name (fun _ => formZpx) ∧
  FamilyRow (ctor .aby) (32 * i + 25) mn name (fun _ => formAby) ∧
  FamilyRow (ctor .abx) (32 * i + 29) mn name (fun _ => formAbx)

/-- A family 00 rule's four columns 1, 3, 5 and 7 (R68). -/
def Family00Rule (ctor : Mode00 → Instr) (i : Nat) (mn : Mnemonic) (name : String) : Prop :=
  FamilyRow (ctor .zp) (32 * i + 4) mn name (fun _ => formZp) ∧
  FamilyRow (ctor .abs) (32 * i + 12) mn name (fun _ => formAbs) ∧
  FamilyRow (ctor .zpx) (32 * i + 20) mn name (fun _ => formZpx) ∧
  FamilyRow (ctor .abx) (32 * i + 28) mn name (fun _ => formAbx)

/-- A family 10 rule's legal columns but ACC (R70); columns 5 and 7 may depend on `ZPY_SUBST`. -/
def Family10Rule (ctor : Mode10 → Instr) (i : Nat) (mn : Mnemonic) (name : String) (f5 f7 : Bool → Form) : Prop :=
  FamilyRow (ctor .imm) (32 * i + 2) mn name (fun _ => formImm) ∧
  FamilyRow (ctor .zp) (32 * i + 6) mn name (fun _ => formZp) ∧
  FamilyRow (ctor .abs) (32 * i + 14) mn name (fun _ => formAbs) ∧
  FamilyRow (ctor .zpx) (32 * i + 22) mn name f5 ∧
  FamilyRow (ctor .abx) (32 * i + 30) mn name f7

/-- The ACC column of a shift (R170 to R173). -/
def AccRow (ctor : Mode10 → Instr) (i : Nat) (mn : Mnemonic) (name : String) : Prop :=
  FamilyRow (ctor .acc) (32 * i + 10) mn name (fun _ => formAcc)

/-- Column 4, an ILL column of every family 10 mnemonic. -/
def Ill4Row (ctor : Mode10 → Instr) (i : Nat) (mn : Mnemonic) (name : String) : Prop :=
  IllegalRow (ctor .ill4) (32 * i + 18) mn name

/-- Column 6, the other ILL column. -/
def Ill6Row (ctor : Mode10 → Instr) (i : Nat) (mn : Mnemonic) (name : String) : Prop :=
  IllegalRow (ctor .ill6) (32 * i + 26) mn name

/-- Column 5 of STX and LDX (R70). -/
def zpIndexed (z : Bool) : Form := if z then formZpy else formZpx

/-- Column 7 of LDX (R70). -/
def absIndexedLdx (z : Bool) : Form := if z then formAby else formAbx

/-! ### Hexadecimal texts, sequences, and runs of PULL -/

/-- The number a text of uppercase hexadecimal digits stands for; `none` if a character is no such digit. -/
def hexValue (text : String) : Option Nat :=
  text.toList.foldl (fun acc ch =>
    match acc with
    | none => none
    | some n =>
      if '0' ≤ ch ∧ ch ≤ '9' then some (16 * n + (ch.toNat - '0'.toNat))
      else if 'A' ≤ ch ∧ ch ≤ 'F' then some (16 * n + (ch.toNat - 'A'.toNat + 10))
      else none) (some 0)

/-- The records cover the bytes from `a` to `e` with no gap and no overlap (R97). -/
def Covers (e : Nat) : Nat → List Emission → Prop
  | a, [] => a = e
  | a, x :: xs => x.record.index = a ∧ a < e ∧ 1 ≤ x.record.advance ∧ Covers e (a + x.record.advance) xs

/-- `n` PULLs that all return an `Item`, and the state they leave. -/
def pullItems : Nat → State → Option (List Emission × State)
  | 0, s => some ([], s)
  | n + 1, s =>
    match pull s with
    | .next t =>
      match t.reply with
      | .item x => (pullItems n t).map fun (xs, u) => (x :: xs, u)
      | _ => none
    | _ => none

/-- Two records that agree in all but the text. -/
def SameButText (x y : Record) : Prop := { x with text := "" } = { y with text := "" }

end Sys2Proof.Claims

open Sys2Proof Sys2Proof.Machine Sys2Proof.Claims

/-! ### Classification, encoding, length -/

/-- R77: the whole opcode map, with both values of `ZPY_SUBST`, and its class totals. The map is the spec's own derivation: the
special bytes are from general knowledge (93 GK1; log 7), `ZPY_SUBST` is 92 D6, and index 0 of family 00 is 92 D24. -/
def Obligations.ClassifierMatchesOpcodeMap : Prop :=
  (∀ (z : Bool) (op : Byte), cellOfClass (classify z op) = mapCellWith z op) ∧
  ∀ z : Bool,
    countBytes (fun op => kindOf (classify z op) == .special) = 34 ∧
    countBytes (fun op => kindOf (classify z op) == .generic) = 140 ∧
    countBytes (fun op => kindOf (classify z op) == .illegalMode) = 14 ∧
    countBytes (fun op => kindOf (classify z op) == .unknown) = 68

/-- R73: the length ROM holds the lengths the classes give, all of them 1, 2 or 3, whatever `ZPY_SUBST` is; with R75's
totals of the ROM's cells. IllegalMode's length 1 is the spec's own decision (92 D8), and so is BRK's unread padding (92 D10). -/
def Obligations.LengthRomFollowsClass : Prop :=
  (∀ (z : Bool) (op : Byte),
    (lengthRom op = 1 ∨ lengthRom op = 2 ∨ lengthRom op = 3) ∧
    lengthRom op =
      if op = 0x00 then 2
      else
        match classify z op with
        | .special _ md | .generic _ md => 1 + md.width
        | .illegalMode _ | .unknown => 1) ∧
  countBytes (fun op => lengthRom op == 1) = 110 ∧ countBytes (fun op => lengthRom op == 2) = 91 ∧
  countBytes (fun op => lengthRom op == 3) = 55

/-- R62, R77: no bit of an encoding is dropped. Every well-formed instruction is what the decoder makes of its byte. -/
def Obligations.DecodeOfEncode : Prop :=
  ∀ i : Instr, i.wellFormed = true → decode (encode i) = i

/-- R62: classification is total; every byte decodes to a well-formed instruction whose byte it is. -/
def Obligations.EncodeOfDecode : Prop :=
  ∀ op : Byte, (decode op).wellFormed = true ∧ encode (decode op) = op

/-- Bytes of R110, R142, R153, R161, R170, R178, R166 and R180, written out bit by bit. -/
def Obligations.WrittenOutBytesDecode : Prop :=
  decode 0b00000000 = .brk ∧ decode 0b11110000 = .beq ∧ decode 0b01101101 = .adc .abs ∧ decode 0b01101100 = .jmp .three .abs ∧
  decode 0b00001010 = .asl .acc ∧ decode 0b10010010 = .stx .ill4 ∧ decode 0b00011100 = .unknown 0x1C ∧
  decode 0b11111111 = .unknown 0xFF

/-- R92 with R62: the meaning of every byte's instruction is the step for that byte's class, as R62's classifier gives it
from the tables under the decoder's own `ZPY_SUBST`. It says of all 57 constructors that they agree with the tables. -/
def Obligations.ExecFollowsClassifier : Prop :=
  ∀ (op : Byte) (s : State), exec (decode op) s = decodeAs op (classify s.params.zpySubst op) s

/-! ### Operands and rendering -/

/-- R72, R101: `hex2` and `hex4` are exact uppercase base-16 renderings of 2 and 4 digits. -/
def Obligations.HexTextsAreExact : Prop :=
  (∀ v : Byte, (hex2 v).length = 2 ∧ hexValue (hex2 v) = some v.toNat) ∧
  ∀ v : Half, (hex4 v).length = 4 ∧ hexValue (hex4 v) = some v.toNat

/-- R44, R71: what the operand fetch gives for every mode. Width 0 reads nothing; width 1 is the raw byte at `pc+1`;
width 2 is the byte at `pc+1` as the low one and the byte at `pc+2` as the high one, an exact 16-bit value. No other width
exists, and nothing but the mode's width and the two bytes enters the value. -/
def Obligations.OperandIsLittleEndian : Prop :=
  (∀ (s : State) (md : Mode),
    (md.width = 0 ∧ fetchOperand s (some md) = .ok ⟨none, []⟩) ∨
    (md.width = 1 ∧ ∀ b1 : Byte, s.readByte (s.pc + 1) = .ok b1 →
      fetchOperand s (some md) = .ok ⟨some (.byte b1), [s.pc + 1]⟩) ∨
    (md.width = 2 ∧ ∀ b1 b2 : Byte, s.readByte (s.pc + 1) = .ok b1 → s.readByte (s.pc + 2) = .ok b2 →
      fetchOperand s (some md) = .ok ⟨some (.half (assembleHalf b1 b2)), [s.pc + 1, s.pc + 2]⟩)) ∧
  ∀ b1 b2 : Byte,
    assembleHalf b1 b2 = b1.setWidth 16 ||| (b2.setWidth 16 <<< 8) ∧
    (assembleHalf b1 b2).toNat = b1.toNat + 256 * b2.toNat

/-! ### The ByteStream, the range, reset -/

/-- R31, R210, R90 (N = 0): reset is CONSTRUCT of the empty buffer (the model's choice of buffer and of its own fields:
log 1, 2, 3), and the decoder is Exhausted. R95: the adapter's bit is false at the adapter's creation; that it stands in State for
one adapter, and is false at reset, is the model's choice (log 9). -/
def Obligations.ResetIsEmptyConstruct : Prop :=
  State.reset = constructDecoder [] none none State.reset ∧ State.reset.mem = [] ∧ State.reset.rangeStart = 0 ∧
  State.reset.rangeEnd = 0 ∧ State.reset.pc = 0 ∧ State.reset.tDone = false ∧ State.reset.ready = false ∧
  State.reset.params = ⟨"???", "???", "END", ".END", false⟩

/-- R90, R22, R23: CONSTRUCT clamps the range, sets the cursor to its start and holds the caller's bytes. The clamping of an
empty or overlong range is the spec's own decision (92 D11, D28). That CONSTRUCT leaves the one adapter's bit `t_done` false is the
model's choice (log 9, after R95: false at the adapter's creation). -/
def Obligations.ConstructSetsRange : Prop :=
  ∀ (bytes : List Byte) (start stop : Option Nat) (s : State),
    ∃ t, perform (.construct bytes start stop) s = .next t ∧
      t.rangeStart = min (start.getD 0) bytes.length ∧
      t.rangeEnd = max t.rangeStart (min (stop.getD bytes.length) bytes.length) ∧
      t.pc = t.rangeStart ∧
      t.reply.emissions = [] ∧
      Memory.size t.mem = bytes.length ∧
      (∀ a : Nat, Memory.read t.mem a = bytes[a]?) ∧
      t.tDone = false ∧
      t.params = s.params ∧ t.pending = s.pending

/-- R20, R21, R40: every operation that makes a ByteStream makes one in the canonical form, and it holds its bytes. The form is
the model's own (log 5, deduced from these rules); the third clause is about `withFetchWord`, which is no command of the DDC but
the model's stand-in for a load (log 1). -/
def Obligations.MemoryStaysCanonical : Prop :=
  (∀ bytes : List Byte, Memory.wf (Memory.ofBytes bytes) = true ∧ Memory.bytes (Memory.ofBytes bytes) = bytes) ∧
  (∀ mem : Memory, Memory.wf mem = true → Memory.ofBytes (Memory.bytes mem) = mem) ∧
  ∀ (s : State) (nbits w : Nat), Memory.wf (s.withFetchWord nbits w).mem = true

/-- R11, R42: under the invariant `MemRead` is defined exactly inside `[s, e)`, where it gives the ByteStream's byte. The spec
defines no read outside and raises no fault (R54); that the model answers such a read with the fault `memReadUndefined` is the
model's choice (log 6). -/
def Obligations.ReadDefinedExactlyInRange : Prop :=
  ∀ (s : State) (a : Nat), s.Inv →
    ((s.rangeStart ≤ a ∧ a < s.rangeEnd) → ∃ b, s.readByte a = .ok b ∧ Memory.read s.mem a = some b) ∧
    (¬(s.rangeStart ≤ a ∧ a < s.rangeEnd) → s.readByte a = .error (.memReadUndefined a))

/-- R24: the invariant holds at reset (whose buffer is the model's choice, log 1), and nothing read lies outside the range. -/
def Obligations.ResetMeetsInvariants : Prop := State.reset.Inv ∧ State.reset.ReplyWithin

/-- R24: whatever the caller does next, a step that goes on keeps `s <= pc <= e <= N` and the ByteStream's form. -/
def Obligations.StepKeepsInvariant : Prop :=
  ∀ s t : State, s.Inv → step s = .next t → t.Inv

/-- R42: every read lies in `[s, e)` and inside the buffer, as an invariant of what commands return. -/
def Obligations.StepKeepsReadsInRange : Prop :=
  ∀ s t : State, s.Inv → s.ReplyWithin → step s = .next t → t.ReplyWithin ∧ t.rangeEnd ≤ Memory.size t.mem

/-- R54, R196, R199: from a state that meets the invariant every lawful action completes; none faults. -/
def Obligations.LawfulActionCompletes : Prop :=
  ∀ s : State, s.Inv → s.nextAction.lawful = true → ∃ t, step s = .next t

/-- R41, R99: no action but CONSTRUCT changes the ByteStream or the range, and none lowers the cursor. That no action at all,
CONSTRUCT among them, changes the parameters is the model's choice (log 4). -/
def Obligations.OnlyConstructMovesBack : Prop :=
  ∀ s t : State, step s = .next t →
    t.params = s.params ∧
    ((∀ bytes start stop, s.nextAction ≠ .construct bytes start stop) →
      s.pc ≤ t.pc ∧ t.rangeStart = s.rangeStart ∧ t.rangeEnd = s.rangeEnd ∧ t.mem = s.mem ∧
      ∀ a : Nat, Memory.read t.mem a = Memory.read s.mem a)

/-! ### DECODE_ONE -/

/-- The frame of every instruction (all 57 constructors): a next state differs in the cursor and in what was returned, and
in nothing else; every byte of the ByteStream reads as before (R92 "State written", R41). -/
def Obligations.ExecFrame : Prop :=
  ∀ (i : Instr) (s t : State), exec i s = .next t →
    t.params = s.params ∧ t.mem = s.mem ∧ t.rangeStart = s.rangeStart ∧ t.rangeEnd = s.rangeEnd ∧ t.tDone = s.tDone ∧
    t.pending = s.pending ∧ ∀ a : Nat, Memory.read t.mem a = Memory.read s.mem a

/-- R91, R92: in Ready, a step whose action is DECODE_ONE is `exec` of the instruction of the byte at the cursor. R90, R91, R94,
R95: in every state a step whose waiting action is CONSTRUCT, DECODE_ONE, DECODE_ALL or PULL is that command, on the state with
the action taken off. That the caller's actions wait in a list of State, the first one next, and that a step with none waiting is
a DECODE_ONE is the model's choice (log 3). -/
def Obligations.StepRunsDecodedInstruction : Prop :=
  (∀ (s : State) (op : Byte), s.pc < s.rangeEnd → s.readByte s.pc = .ok op →
    (s.pending = [] → step s = exec (decode op) s) ∧
    ∀ rest, s.pending = .decodeOne :: rest → step s = exec (decode op) { s with pending := rest }) ∧
  (∀ s : State, s.pending = [] → step s = decodeOne s) ∧
  ∀ (s : State) (rest : List CallerAction),
    (s.pending = .decodeOne :: rest → step s = decodeOne { s with pending := rest }) ∧
    (s.pending = .decodeAll :: rest → step s = decodeAll { s with pending := rest }) ∧
    (s.pending = .pull :: rest → step s = pull { s with pending := rest }) ∧
    ∀ (bytes : List Byte) (start stop : Option Nat), s.pending = .construct bytes start stop :: rest →
      step s = .next (constructDecoder bytes start stop { s with pending := rest })

/-- A table word placed where the next step fetches is the instruction that step runs (log 1; with no action waiting, a
step is a DECODE_ONE: log 3). -/
def Obligations.FetchWordRunsNext : Prop :=
  ∀ (s : State) (nbits w : Nat) (i : Instr), decodeTableWord nbits w = some i →
    step (s.withFetchWord nbits w) = exec i (s.withFetchWord nbits w)

/-- R93: DECODE_ONE in Exhausted returns the terminal record, reads nothing, and a second one returns it again. -/
def Obligations.ExhaustedReturnsTerminal : Prop :=
  ∀ s : State, s.rangeEnd ≤ s.pc →
    decodeOne s = .next { s with reply := .record (terminalEmission s) } ∧
    decodeOne { s with reply := .record (terminalEmission s) } = .next { s with reply := .record (terminalEmission s) }

/-- R191 checks TERMINAL first: the meaning of any instruction, asked for in Exhausted, is the terminal record (log 11). -/
def Obligations.ExecInExhaustedIsTerminal : Prop :=
  ∀ (i : Instr) (s : State), s.rangeEnd ≤ s.pc → exec i s = .next { s with reply := .record (terminalEmission s) }

/-- R191, R190: how a step picks its status, in priority order, from `pc`, `e` and the opcode alone. The order is the spec's own
decision (92 D14). -/
def Obligations.StatusByPriority : Prop :=
  ∀ (s t : State) (op : Byte), decodeOne s = .next t → (s.pc < s.rangeEnd → s.readByte s.pc = .ok op) →
    ∃ x, t.reply = .record x ∧ x.record.status =
      if s.rangeEnd ≤ s.pc then .terminal
      else if kindOf (classify s.params.zpySubst op) = .unknown then .unknownOpcode
      else if kindOf (classify s.params.zpySubst op) = .illegalMode then .illegalMode
      else if s.rangeEnd < s.pc + lengthRom op then .truncated
      else .ok

/-- R196: no condition traps or aborts, and its only effect on the state is its step's cursor update. Under the invariant
DECODE_ONE completes; UNKNOWN_OPCODE and ILLEGAL_MODE advance 1, TRUNCATED clamps to `e`, TERMINAL moves nothing, and OK
advances by the opcode's length. The reply apart (log 2), no other field changes. -/
def Obligations.ConditionsOnlyMoveCursor : Prop :=
  ∀ s : State, s.Inv → ∃ x pc', decodeOne s = .next { s with pc := pc', reply := .record x } ∧
    match x.record.status with
    | .terminal => pc' = s.pc
    | .unknownOpcode | .illegalMode => pc' = s.pc + 1
    | .truncated => pc' = s.rangeEnd
    | .ok => ∃ op, s.readByte s.pc = .ok op ∧ pc' = s.pc + lengthRom op

/-- R25, R197: Exhausted is absorbing. Whatever the caller does but CONSTRUCT, a step from Exhausted leaves Exhausted. -/
def Obligations.ExhaustedIsAbsorbing : Prop :=
  ∀ s t : State, s.rangeEnd ≤ s.pc → step s = .next t → (∀ bytes start stop, s.nextAction ≠ .construct bytes start stop) →
    t.rangeEnd ≤ t.pc

/-- R194, R92: the truncation clamp. The cursor goes to `e`, no operand byte is read, and the text is the mnemonic with
`S_TRUNC`, or the mnemonic alone for an implied mode. That no partial operand is read and that the cut BRK has no sentinel are
the spec's own decisions (92 D9). -/
def Obligations.TruncationClampsCursor : Prop :=
  ∀ (s : State) (op : Byte), s.pc < s.rangeEnd → s.readByte s.pc = .ok op → s.rangeEnd < s.pc + lengthRom op →
    ∃ mn md, (classify s.params.zpySubst op = .special mn md ∨ classify s.params.zpySubst op = .generic mn md) ∧
      decodeOne s = .next (cut s op mn md
        (if md = .imp then mnemonicText mn else mnemonicText mn ++ " " ++ s.params.truncated))

/-- R96: a DECODE_ONE in Ready raises the cursor by its record's `advance`, which is at least 1 and at most 3. -/
def Obligations.ReadyStepAdvances : Prop :=
  ∀ s t : State, s.pc < s.rangeEnd → decodeOne s = .next t →
    ∃ x, t.reply = .record x ∧ x.record.index = s.pc ∧ t.pc = s.pc + x.record.advance ∧ 1 ≤ x.record.advance ∧
      x.record.advance ≤ 3 ∧ t.pc ≤ s.rangeEnd

/-- R45: the opcode is read first, then `pc+1`, then `pc+2`, each at most once; in Exhausted nothing is read. The order is the
spec's own decision (92 D22). -/
def Obligations.ReadTraceInOrder : Prop :=
  ∀ s t : State, decodeOne s = .next t →
    ∃ x, t.reply = .record x ∧
      (s.rangeEnd ≤ s.pc → x.reads = []) ∧
      (s.pc < s.rangeEnd → x.reads ≠ [] ∧ x.reads <+: [s.pc, s.pc + 1, s.pc + 2])

/-- R30, R98, 93 U10 and U11: DECODE_ONE is a function of the range, the cursor, the parameters and the bytes it reads. A
second decoder that agrees on these returns the same record and moves its cursor alike, whatever its other bytes (BRK's
padding byte among them), its adapter bit, its last reply and its waiting actions are. -/
def Obligations.DecodeOneDependsOnReadBytes : Prop :=
  ∀ (s t s' : State) (x : Emission), decodeOne s = .next t → t.reply = .record x →
    s'.params = s.params → s'.rangeStart = s.rangeStart → s'.rangeEnd = s.rangeEnd → s'.pc = s.pc →
    (∀ a ∈ x.reads, s'.readByte a = s.readByte a) →
    ∃ t', decodeOne s' = .next t' ∧ t'.reply = .record x ∧ t'.pc = t.pc

/-- 92 D2: the sentinels change texts only. A decoder with other sentinel texts makes the same steps, reads and records
but for the text. -/
def Obligations.SentinelsChangeTextsOnly : Prop :=
  ∀ (s t : State) (x : Emission) (p : Params), decodeOne s = .next t → t.reply = .record x →
    p.zpySubst = s.params.zpySubst →
    ∃ t' y, decodeOne { s with params := p } = .next t' ∧ t'.reply = .record y ∧ t'.pc = t.pc ∧ y.reads = x.reads ∧
      SameButText x.record y.record

/-- R100: the cursor advances linearly by `LEN[op]`, whatever the opcode means on a 6502. -/
def Obligations.CursorAdvancesLinearly : Prop :=
  ∀ (i : Instr) (s t : State), i.wellFormed = true → s.pc + lengthRom (encode i) ≤ s.rangeEnd → exec i s = .next t →
    t.pc = s.pc + lengthRom (encode i)

/-! ### DECODE_ALL, PULL and the caller's other actions -/

/-- R94, R97, R96: DECODE_ALL completes with the cursor at `e`; its records but the last cover the bytes from the cursor to
`e` one after the other, none of them TERMINAL and at most one per byte; the last one is the TERMINAL record at `e`. That it starts
at the current cursor is the spec's own decision (92 D16). -/
def Obligations.DecodeAllCoversRange : Prop :=
  ∀ s : State, s.Inv →
    ∃ xs, decodeAll s =
        .next { s with pc := s.rangeEnd, reply := .records (xs ++ [terminalEmission { s with pc := s.rangeEnd }]) } ∧
      Covers s.rangeEnd s.pc xs ∧ (∀ x ∈ xs, x.record.status ≠ .terminal) ∧ xs.length ≤ s.rangeEnd - s.pc

/-- R94: DECODE_ALL is DECODE_ONE while the decoder is Ready, and one DECODE_ONE more. That it starts at the current `pc` is the
spec's own decision (92 D16). -/
def Obligations.DecodeAllIteratesDecodeOne : Prop :=
  (∀ s : State, s.rangeEnd ≤ s.pc → decodeAll s = .next { s with reply := .records [terminalEmission s] }) ∧
  ∀ (s t u : State) (x : Emission) (ys : List Emission), s.Inv → s.pc < s.rangeEnd →
    decodeOne s = .next t → t.reply = .record x → decodeAll t = .next u → u.reply = .records ys →
    decodeAll s = .next { u with reply := .records (x :: ys) }

/-- 20_memory.md R42, 95 V43: over a whole DECODE_ALL every address read lies between the cursor and `e`, and none is
read twice. -/
def Obligations.DecodeAllReadsOnce : Prop :=
  ∀ (s t : State) (xs : List Emission), s.Inv → decodeAll s = .next t → t.reply = .records xs →
    (xs.flatMap (fun x => x.reads)).Nodup ∧ ∀ a ∈ xs.flatMap (fun x => x.reads), s.pc ≤ a ∧ a < s.rangeEnd

/-- R95: the items of a full pull sequence are DECODE_ALL's list, element for element, and every later PULL is `End`. That the
terminal record is handed out once and then `End` is the spec's own decision (92 D15); that State holds one adapter's bit is the
model's choice (log 9). -/
def Obligations.PullSequenceIsDecodeAll : Prop :=
  ∀ (s t : State) (xs : List Emission), s.Inv → s.tDone = false → decodeAll s = .next t → t.reply = .records xs →
    ∃ u, pullItems xs.length s = some (xs, u) ∧ u.tDone = true ∧ u.pc = t.pc ∧
      pull u = .next { u with reply := .endOfSequence } ∧
      pull { u with reply := .endOfSequence } = .next { u with reply := .endOfSequence }

/-- R95: a new adapter has `t_done` false and touches nothing else. One PULL: with `t_done` it is `End`; else it is one
DECODE_ONE, whose record is the item and sets `t_done` where it is TERMINAL. That `t_done` is a bit of its own is the spec's
decision (92 D15), and that the decoder has one adapter at a time the model's choice (log 9). -/
def Obligations.PullStepsOnce : Prop :=
  (∀ (s : State) (rest : List CallerAction), s.pending = .newAdapter :: rest →
    step s = .next { s with pending := rest, tDone := false }) ∧
  (∀ s : State, s.tDone = true → pull s = .next { s with reply := .endOfSequence }) ∧
  ∀ (s t : State) (x : Emission), s.tDone = false → decodeOne s = .next t → t.reply = .record x →
    pull s = .next { t with reply := .item x, tDone := x.record.status == .terminal }

/-- R51, R214, R212, 93 U1, U2 and U5: two commands at once, a change of the ByteStream, and a DECODE_ONE, DECODE_ALL or PULL
before CONSTRUCT are refused, each by its own name. That such a breach is an action of the caller's waiting list is the model's
choice (log 3, 15, 16). -/
def Obligations.UnlawfulActionsRefused : Prop :=
  ∀ (s : State) (rest : List CallerAction),
    (s.pending = .overlap :: rest → step s = .refused .overlappingCommands) ∧
    (∀ (a : Nat) (b : Byte), s.pending = .changeByte a b :: rest → step s = .refused .byteStreamChanged) ∧
    ∀ c : DecoderCommand, s.pending = .beforeConstruct c :: rest → step s = .refused (.commandBeforeConstruct c)

/-- R207: between commands the decoder holds its state without change. -/
def Obligations.IdleHoldsState : Prop :=
  ∀ (s : State) (rest : List CallerAction), s.pending = .idle :: rest → step s = .next { s with pending := rest }

/-! ### The instructions, rule by rule. Each statement gives the whole next state, so what it does not name is unchanged. -/

/-- R110, R74: BRK advances 2 with its padding byte unread, or is clamped at the last byte with the text `BRK`. The byte value is
from general knowledge (93 GK1; log 7); the unread padding and the cut BRK's text are the spec's own decisions (92 D9, D10). -/
def Obligations.BrkSkipsPadding : Prop :=
  SpecialEncoding ⟨.brk, 0x00, .brk, "BRK", .unknown⟩ .imp 2 ∧
    ∀ s : State,
      (s.pc + 2 ≤ s.rangeEnd → exec .brk s = .next (fitted s 2 0x00 .brk .imp none "BRK" [s.pc])) ∧
      (s.pc + 1 = s.rangeEnd → exec .brk s = .next (cut s 0x00 .brk .imp "BRK"))

/-- RTI, RTS, PHP, PLP, PHA, PLA. The byte values are from general knowledge (93 GK1; log 7). -/
def Obligations.StackOpcodesDecode : Prop := ∀ r ∈ stackSpecials, ImpliedRule r

/-- TAX, TXA, TAY, TYA, TSX, TXS, DEX, DEY, INX, INY. The byte values are from general knowledge (93 GK1; log 7). -/
def Obligations.TransferOpcodesDecode : Prop := ∀ r ∈ transferSpecials, ImpliedRule r

/-- CLC, SEC, CLI, SEI, CLV, CLD, SED, NOP. The byte values are from general knowledge (93 GK1; log 7). -/
def Obligations.FlagOpcodesDecode : Prop := ∀ r ∈ flagSpecials, ImpliedRule r

/-- BPL, BMI, BVC, BVS, BCC, BCS, BNE, BEQ. The byte values are from general knowledge (93 GK1; log 7); the raw offset and its `$`
are the spec's own decisions (92 D25, D3). -/
def Obligations.BranchOpcodesDecode : Prop := ∀ r ∈ branchSpecials, BranchRule r

/-- JSR: R143. The byte value is from general knowledge (93 GK1; log 7). -/
def Obligations.JsrDecodes : Prop :=
  SpecialEncoding ⟨.jsr, 0x20, .jsr, "JSR", .generic .bit .imm⟩ .abs 3 ∧
    ∀ s : State,
      (∀ b1 b2 : Byte, s.pc + 3 ≤ s.rangeEnd → s.readByte (s.pc + 1) = .ok b1 → s.readByte (s.pc + 2) = .ok b2 →
        exec .jsr s =
          .next (fitted s 3 0x20 .jsr .abs (some (.half (assembleHalf b1 b2)))
            ("JSR" ++ " " ++ ("$" ++ hex4 (assembleHalf b1 b2) ++ "")) [s.pc, s.pc + 1, s.pc + 2])) ∧
      CutShort .jsr 0x20 .jsr "JSR" .abs 3 s

/-- ORA, AND, EOR, ADC, STA, LDA, CMP, SBC. The `#$` of an immediate is the spec's own decision (92 D3), and so is that 0x89 decodes
as STA (92 D5). -/
def Obligations.Family01Decodes : Prop :=
  Family01Rule .ora 0 .ora "ORA" ∧ Family01Rule .and 1 .and "AND" ∧ Family01Rule .eor 2 .eor "EOR" ∧
  Family01Rule .adc 3 .adc "ADC" ∧ Family01Rule .sta 4 .sta "STA" ∧ Family01Rule .lda 5 .lda "LDA" ∧
  Family01Rule .cmp 6 .cmp "CMP" ∧ Family01Rule .sbc 7 .sbc "SBC"

/-- BIT, JMP (at both of its indices), STY, LDY, CPY, CPX. That 0x6C is absolute (92 D7), that bytes undocumented on a 6502 decode
(92 D5) and the `#$` (92 D3) are the spec's own decisions. -/
def Obligations.Family00Decodes : Prop :=
  Family00Rule .bit 1 .bit "BIT" ∧
  Family00Rule (.jmp .two) 2 .jmp "JMP" ∧ Family00Rule (.jmp .three) 3 .jmp "JMP" ∧
  (Family00Rule .sty 4 .sty "STY" ∧ FamilyRow (.sty .imm) 0x80 .sty "STY" (fun _ => formImm)) ∧
  (Family00Rule .ldy 5 .ldy "LDY" ∧ FamilyRow (.ldy .imm) 0xA0 .ldy "LDY" (fun _ => formImm)) ∧
  (Family00Rule .cpy 6 .cpy "CPY" ∧ FamilyRow (.cpy .imm) 0xC0 .cpy "CPY" (fun _ => formImm)) ∧
  (Family00Rule .cpx 7 .cpx "CPX" ∧ FamilyRow (.cpx .imm) 0xE0 .cpx "CPX" (fun _ => formImm))

/-- ASL, ROL, LSR, ROR, with their accumulator and ILL columns. The immediate columns (92 D5), the `#$` (92 D3) and the ILL columns'
length 1 (92 D8) are the spec's own decisions. -/
def Obligations.ShiftOpcodesDecode : Prop :=
  (Family10Rule .asl 0 .asl "ASL" (fun _ => formZpx) (fun _ => formAbx) ∧ AccRow .asl 0 .asl "ASL" ∧
    Ill4Row .asl 0 .asl "ASL" ∧ Ill6Row .asl 0 .asl "ASL") ∧
  (Family10Rule .rol 1 .rol "ROL" (fun _ => formZpx) (fun _ => formAbx) ∧ AccRow .rol 1 .rol "ROL" ∧
    Ill4Row .rol 1 .rol "ROL" ∧ Ill6Row .rol 1 .rol "ROL") ∧
  (Family10Rule .lsr 2 .lsr "LSR" (fun _ => formZpx) (fun _ => formAbx) ∧ AccRow .lsr 2 .lsr "LSR" ∧
    Ill4Row .lsr 2 .lsr "LSR" ∧ Ill6Row .lsr 2 .lsr "LSR") ∧
  (Family10Rule .ror 3 .ror "ROR" (fun _ => formZpx) (fun _ => formAbx) ∧ AccRow .ror 3 .ror "ROR" ∧
    Ill4Row .ror 3 .ror "ROR" ∧ Ill6Row .ror 3 .ror "ROR")

/-- STX and LDX, whose indexed modes follow `ZPY_SUBST`, the spec's own parameter (92 D6). The immediate column of STX (92 D5), the
`#$` (92 D3) and the ILL column's length 1 (92 D8) are its decisions too. -/
def Obligations.StxLdxFollowZpySubst : Prop :=
  (Family10Rule .stx 4 .stx "STX" zpIndexed (fun _ => formAbx) ∧ Ill4Row .stx 4 .stx "STX") ∧
  (Family10Rule .ldx 5 .ldx "LDX" zpIndexed absIndexedLdx ∧ Ill4Row .ldx 5 .ldx "LDX")

/-- DEC and INC. The immediate columns (92 D5), the `#$` (92 D3) and the ILL columns' length 1 (92 D8) are the spec's own decisions. -/
def Obligations.DecIncDecode : Prop :=
  (Family10Rule .dec 6 .dec "DEC" (fun _ => formZpx) (fun _ => formAbx) ∧ Ill4Row .dec 6 .dec "DEC" ∧
    Ill6Row .dec 6 .dec "DEC") ∧
  (Family10Rule .inc 7 .inc "INC" (fun _ => formZpx) (fun _ => formAbx) ∧ Ill4Row .inc 7 .inc "INC" ∧
    Ill6Row .inc 7 .inc "INC")

/-- R178: the 14 IllegalMode bytes with their texts, and no other byte is of that class. Their length 1 is the spec's own decision
(92 D8). -/
def Obligations.IllegalModeBytes : Prop :=
  (Ill4Row .asl 0 .asl "ASL" ∧ Ill6Row .asl 0 .asl "ASL" ∧ Ill4Row .rol 1 .rol "ROL" ∧ Ill6Row .rol 1 .rol "ROL" ∧
    Ill4Row .lsr 2 .lsr "LSR" ∧ Ill6Row .lsr 2 .lsr "LSR" ∧ Ill4Row .ror 3 .ror "ROR" ∧ Ill6Row .ror 3 .ror "ROR" ∧
    Ill4Row .stx 4 .stx "STX" ∧ Ill4Row .ldx 5 .ldx "LDX" ∧ Ill4Row .dec 6 .dec "DEC" ∧ Ill6Row .dec 6 .dec "DEC" ∧
    Ill4Row .inc 7 .inc "INC" ∧ Ill6Row .inc 7 .inc "INC") ∧
  ∀ (z : Bool) (op : Byte), kindOf (classify z op) = .illegalMode ↔
    op ∈ [0x12, 0x32, 0x52, 0x72, 0x92, 0xB2, 0xD2, 0xF2, 0x1A, 0x3A, 0x5A, 0x7A, 0xDA, 0xFA]

/-- R180: every family 11 byte `aaabbb11`, whatever `aaa` and `bbb` are. -/
def Obligations.Family11BytesAreUnknown : Prop :=
  ∀ a b : BitVec 3, UnknownRow (packOpcode a b 3)

/-- R166: the bytes of family 00, index 0, that the special table leaves. That they are Unknown is the spec's own decision (92
D24, against DOC0's "is always intercepted by the single-byte table first"). With R181: no other byte is Unknown. -/
def Obligations.Index0BytesAreUnknown : Prop :=
  UnknownRow 0x04 ∧ UnknownRow 0x0C ∧ UnknownRow 0x14 ∧ UnknownRow 0x1C ∧
  ∀ (z : Bool) (op : Byte), classify z op = .unknown ↔ (op.toNat % 4 = 3 ∨ op ∈ [0x04, 0x0C, 0x14, 0x1C])
end

