-- ==== Sys2Proof/Laws/State.lean ====
section
/-!
SUPPORT. The fields after each update of the state: one lemma per field, so that no proof unfolds a record update.
-/

namespace Sys2Proof.Machine

/-! ### `State.emit` writes the cursor and the reply -/

@[simp] theorem State.emit_params (s : State) (p : Nat) (x : Emission) : (s.emit p x).params = s.params := rfl
@[simp] theorem State.emit_mem (s : State) (p : Nat) (x : Emission) : (s.emit p x).mem = s.mem := rfl
@[simp] theorem State.emit_rangeStart (s : State) (p : Nat) (x : Emission) : (s.emit p x).rangeStart = s.rangeStart := rfl
@[simp] theorem State.emit_rangeEnd (s : State) (p : Nat) (x : Emission) : (s.emit p x).rangeEnd = s.rangeEnd := rfl
@[simp] theorem State.emit_pc (s : State) (p : Nat) (x : Emission) : (s.emit p x).pc = p := rfl
@[simp] theorem State.emit_tDone (s : State) (p : Nat) (x : Emission) : (s.emit p x).tDone = s.tDone := rfl
@[simp] theorem State.emit_reply (s : State) (p : Nat) (x : Emission) : (s.emit p x).reply = .record x := rfl
@[simp] theorem State.emit_pending (s : State) (p : Nat) (x : Emission) : (s.emit p x).pending = s.pending := rfl

/-! ### CONSTRUCT -/

section
variable (bytes : List Byte) (start stop : Option Nat) (s : State)

@[simp] theorem constructDecoder_params : (constructDecoder bytes start stop s).params = s.params := rfl
@[simp] theorem constructDecoder_mem : (constructDecoder bytes start stop s).mem = Memory.ofBytes bytes := rfl
@[simp] theorem constructDecoder_rangeStart :
    (constructDecoder bytes start stop s).rangeStart = min (start.getD 0) bytes.length := rfl
@[simp] theorem constructDecoder_rangeEnd :
    (constructDecoder bytes start stop s).rangeEnd =
      max (min (start.getD 0) bytes.length) (min (stop.getD bytes.length) bytes.length) := rfl
@[simp] theorem constructDecoder_pc :
    (constructDecoder bytes start stop s).pc = min (start.getD 0) bytes.length := rfl
@[simp] theorem constructDecoder_tDone : (constructDecoder bytes start stop s).tDone = false := rfl
@[simp] theorem constructDecoder_reply : (constructDecoder bytes start stop s).reply = .nothing := rfl
@[simp] theorem constructDecoder_pending : (constructDecoder bytes start stop s).pending = s.pending := rfl

end

/-! ### The waiting action taken off -/

@[simp] theorem State.taken_params (s : State) : s.taken.params = s.params := rfl
@[simp] theorem State.taken_mem (s : State) : s.taken.mem = s.mem := rfl
@[simp] theorem State.taken_rangeStart (s : State) : s.taken.rangeStart = s.rangeStart := rfl
@[simp] theorem State.taken_rangeEnd (s : State) : s.taken.rangeEnd = s.rangeEnd := rfl
@[simp] theorem State.taken_pc (s : State) : s.taken.pc = s.pc := rfl
@[simp] theorem State.taken_tDone (s : State) : s.taken.tDone = s.tDone := rfl
@[simp] theorem State.taken_reply (s : State) : s.taken.reply = s.reply := rfl
@[simp] theorem State.taken_pending (s : State) : s.taken.pending = s.pending.tail := rfl

/-! ### A fetch word placed -/

section
variable (s : State) (nbits w : Nat)

@[simp] theorem withFetchWord_params : (s.withFetchWord nbits w).params = s.params := rfl
@[simp] theorem withFetchWord_mem : (s.withFetchWord nbits w).mem =
    Memory.ofBytes (overwriteBytes (Memory.bytes s.mem) s.pc (tableBytes nbits w)) := rfl
@[simp] theorem withFetchWord_rangeStart : (s.withFetchWord nbits w).rangeStart = min s.rangeStart s.pc := rfl
@[simp] theorem withFetchWord_rangeEnd : (s.withFetchWord nbits w).rangeEnd = max s.rangeEnd (s.pc + 3) := rfl
@[simp] theorem withFetchWord_pc : (s.withFetchWord nbits w).pc = s.pc := rfl
@[simp] theorem withFetchWord_tDone : (s.withFetchWord nbits w).tDone = s.tDone := rfl
@[simp] theorem withFetchWord_reply : (s.withFetchWord nbits w).reply = s.reply := rfl
@[simp] theorem withFetchWord_pending : (s.withFetchWord nbits w).pending = [] := rfl

end

/-! ### Ready and Exhausted -/

theorem State.ready_iff (s : State) : s.ready = true ↔ s.pc < s.rangeEnd := decide_eq_true_iff

theorem State.not_ready_iff (s : State) : s.ready = false ↔ s.rangeEnd ≤ s.pc := by
  simp [State.ready]

/-! ### What a reply carries -/

@[simp] theorem Reply.emissions_nothing : Reply.nothing.emissions = [] := rfl
@[simp] theorem Reply.emissions_endOfSequence : Reply.endOfSequence.emissions = [] := rfl
@[simp] theorem Reply.emissions_record (x : Emission) : (Reply.record x).emissions = [x] := rfl
@[simp] theorem Reply.emissions_item (x : Emission) : (Reply.item x).emissions = [x] := rfl
@[simp] theorem Reply.emissions_records (xs : List Emission) : (Reply.records xs).emissions = xs := rfl
@[simp] theorem Reply.asItem_record (x : Emission) : (Reply.record x).asItem = .item x := rfl
@[simp] theorem Reply.isTerminal_record (x : Emission) :
    (Reply.record x).isTerminal = (x.record.status == .terminal) := by
  simp [Reply.isTerminal]

/-! ### `andThen` -/

@[simp] theorem andThen_next (s : State) (f) : andThen (.next s) f = f s := rfl
@[simp] theorem andThen_fault (r : Fault) (f) : andThen (.fault r) f = .fault r := rfl
@[simp] theorem andThen_refused (r : Refusal) (f) : andThen (.refused r) f = .refused r := rfl

/-- `andThen` answers a next state only through one. -/
theorem andThen_eq_next {o : Host.Outcome State Fault Refusal} {f} {t : State} (h : andThen o f = .next t) :
    ∃ u, o = .next u ∧ f u = .next t := by
  cases o with
  | next u => exact ⟨u, rfl, h⟩
  | fault r => cases h
  | refused r => cases h

end Sys2Proof.Machine
end

