-- ==== Sys2Proof/Laws/Memory.lean ====
section
/-!
SUPPORT. The ByteStream's laws: what a read gives, and that every operation that makes a ByteStream makes one in the
canonical form.
-/

namespace Sys2Proof.Machine

theorem Memory.size_ofBytesFrom (a : Nat) (bs : List Byte) : (Memory.ofBytesFrom a bs).length = bs.length := by
  induction bs generalizing a with
  | nil => rfl
  | cons b bs ih => simp [Memory.ofBytesFrom, ih]

@[simp] theorem Memory.size_ofBytes (bs : List Byte) : Memory.size (Memory.ofBytes bs) = bs.length :=
  Memory.size_ofBytesFrom 0 bs

theorem Memory.wfFrom_ofBytesFrom (a : Nat) (bs : List Byte) : Memory.wfFrom a (Memory.ofBytesFrom a bs) = true := by
  induction bs generalizing a with
  | nil => rfl
  | cons b bs ih => simp [Memory.ofBytesFrom, Memory.wfFrom, ih]

/-- A loaded buffer is in the canonical form. -/
@[simp] theorem Memory.wf_ofBytes (bs : List Byte) : Memory.wf (Memory.ofBytes bs) = true :=
  Memory.wfFrom_ofBytesFrom 0 bs

theorem Memory.bytes_ofBytesFrom (a : Nat) (bs : List Byte) : (Memory.ofBytesFrom a bs).map Prod.snd = bs := by
  induction bs generalizing a with
  | nil => rfl
  | cons b bs ih => simp [Memory.ofBytesFrom, ih]

/-- A loaded buffer's bytes are the buffer. -/
theorem Memory.bytes_ofBytes (bs : List Byte) : Memory.bytes (Memory.ofBytes bs) = bs :=
  Memory.bytes_ofBytesFrom 0 bs

/-- In the canonical form from `a` on, a read at or past `a` is a list look-up. -/
theorem Memory.read_of_wfFrom {a : Nat} {mem : Memory} (h : Memory.wfFrom a mem = true) (k : Nat) :
    Memory.read mem (a + k) = (Memory.bytes mem)[k]? := by
  induction mem generalizing a k with
  | nil => simp [Memory.read, Memory.bytes]
  | cons c mem ih =>
    obtain ⟨x, b⟩ := c
    simp only [Memory.wfFrom, Bool.and_eq_true, beq_iff_eq] at h
    obtain ⟨rfl, h⟩ := h
    cases k with
    | zero => simp [Memory.read, Memory.bytes]
    | succ k =>
      have := ih h k
      rw [show x + 1 + k = x + (k + 1) by omega] at this
      simp [Memory.read, Memory.bytes] at this ⊢
      exact this

/-- In the canonical form the byte at an address is the buffer's byte at that index. -/
theorem Memory.read_of_wf {mem : Memory} (h : Memory.wf mem = true) (a : Nat) :
    Memory.read mem a = (Memory.bytes mem)[a]? := by
  simpa using Memory.read_of_wfFrom h a

/-- A loaded buffer reads as the buffer. -/
theorem Memory.read_ofBytes (bs : List Byte) (a : Nat) : Memory.read (Memory.ofBytes bs) a = bs[a]? := by
  rw [Memory.read_of_wf (Memory.wf_ofBytes bs), Memory.bytes_ofBytes]

/-- In the canonical form every address below N holds a byte. -/
theorem Memory.read_some_of_lt {mem : Memory} (h : Memory.wf mem = true) {a : Nat} (ha : a < Memory.size mem) :
    ∃ b, Memory.read mem a = some b := by
  rw [Memory.read_of_wf h]
  exact ⟨(Memory.bytes mem)[a]'(by simpa [Memory.bytes, Memory.size] using ha), List.getElem?_eq_getElem _⟩

theorem Memory.ofBytesFrom_bytes {a : Nat} {mem : Memory} (h : Memory.wfFrom a mem = true) :
    Memory.ofBytesFrom a (Memory.bytes mem) = mem := by
  induction mem generalizing a with
  | nil => rfl
  | cons c mem ih =>
    obtain ⟨x, b⟩ := c
    simp only [Memory.wfFrom, Bool.and_eq_true, beq_iff_eq] at h
    obtain ⟨rfl, h⟩ := h
    have := ih h
    simp_all [Memory.bytes, Memory.ofBytesFrom]

/-- The fetch word's bytes stand at the cursor of the overwritten buffer. -/
theorem overwriteBytes_get (bs new : List Byte) (a k : Nat) (hk : k < new.length) :
    (overwriteBytes bs a new)[a + k]? = new[k]? := by
  have hlen : ((bs ++ List.replicate (a - bs.length) 0).take a).length = a := by
    simp; omega
  rw [overwriteBytes, List.append_assoc, List.getElem?_append_right (by omega), hlen,
    List.getElem?_append_left (by omega)]
  simp

/-! ### Reading through the range check (R11, R42) -/

/-- A read that is defined lies in the range and gives the ByteStream's byte. -/
theorem State.readByte_eq_ok {s : State} {a : Nat} {b : Byte} (h : s.readByte a = .ok b) :
    s.rangeStart ≤ a ∧ a < s.rangeEnd ∧ Memory.read s.mem a = some b := by
  unfold State.readByte at h
  split at h
  case isTrue hr =>
    split at h
    case h_1 heq => cases h; exact ⟨hr.1, hr.2, heq⟩
    case h_2 => cases h
  case isFalse => cases h

/-- A read in the range of a byte the ByteStream has. -/
theorem State.readByte_ok {s : State} {a : Nat} {b : Byte} (hlo : s.rangeStart ≤ a) (hhi : a < s.rangeEnd)
    (hb : Memory.read s.mem a = some b) : s.readByte a = .ok b := by
  simp [State.readByte, hlo, hhi, hb]

/-- Under the invariant every read at or past the cursor and before the range's end is defined. -/
theorem State.Inv.readByte {s : State} (h : s.Inv) {a : Nat} (hlo : s.pc ≤ a) (hhi : a < s.rangeEnd) :
    ∃ b, s.readByte a = .ok b := by
  obtain ⟨hw, h1, h2, h3⟩ := h
  obtain ⟨b, hb⟩ := Memory.read_some_of_lt hw (a := a) (by omega)
  exact ⟨b, State.readByte_ok (by omega) hhi hb⟩

end Sys2Proof.Machine
end

