-- ==== Sys2Proof/Laws/DecodeStep.lean ====
section
/-!
SUPPORT. What the shared operation of every meaning can do: which of its branches a step takes, and what a next state is.
The provers cite these instead of unfolding `decodeAs` and `fetchOperand`.
-/

namespace Sys2Proof.Machine

/-! ### Operand bytes -/

/-- Every mode reads 0, 1 or 2 operand bytes (R67). -/
theorem Mode.width_cases (md : Mode) : md.width = 0 ∨ md.width = 1 ∨ md.width = 2 := by
  cases md <;> simp [Mode.width]

/-- An operand that was fetched: the addresses read, in order, each inside the range; their number is the mode's width. -/
theorem fetchOperand_ok {s : State} {m : Option Mode} {f : Fetched} (h : fetchOperand s m = .ok f) :
    (∀ a ∈ f.reads, s.rangeStart ≤ a ∧ a < s.rangeEnd) ∧
    f.reads = [s.pc + 1, s.pc + 2].take ((m.map Mode.width).getD 0) := by
  cases m with
  | none => cases h; simp
  | some md =>
    obtain hw | hw | hw := Mode.width_cases md <;> simp only [fetchOperand, hw] at h
    · cases h; simp [hw]
    · split at h
      case h_1 h1 => cases h; simpa [hw] using ⟨(State.readByte_eq_ok h1).1, (State.readByte_eq_ok h1).2.1⟩
      case h_2 => cases h
    · split at h
      case h_1 h1 =>
        split at h
        case h_1 h2 =>
          cases h
          have r1 := State.readByte_eq_ok h1
          have r2 := State.readByte_eq_ok h2
          simpa [hw] using ⟨⟨r1.1, r1.2.1⟩, r2.1, r2.2.1⟩
        case h_2 => cases h
      case h_2 => cases h

/-- Where the bytes of a mode's width after the opcode are readable, the operand is fetched. -/
theorem fetchOperand_readable {s : State} {m : Option Mode}
    (h : ∀ a, s.pc < a → a ≤ s.pc + (m.map Mode.width).getD 0 → ∃ b, s.readByte a = .ok b) :
    ∃ f, fetchOperand s m = .ok f := by
  cases m with
  | none => exact ⟨_, rfl⟩
  | some md =>
    simp only [Option.map_some, Option.getD_some] at h
    obtain hw | hw | hw := Mode.width_cases md
    · exact ⟨_, by simp [fetchOperand, hw]; rfl⟩
    · obtain ⟨b, hb⟩ := h (s.pc + 1) (by omega) (by omega)
      exact ⟨_, by simp [fetchOperand, hw, hb]; rfl⟩
    · obtain ⟨b, hb⟩ := h (s.pc + 1) (by omega) (by omega)
      obtain ⟨b', hb'⟩ := h (s.pc + 2) (by omega) (by omega)
      exact ⟨_, by simp [fetchOperand, hw, hb, hb']; rfl⟩

/-- Operands depend on the operand bytes alone. -/
theorem fetchOperand_congr {s s' : State} {m : Option Mode} {f : Fetched} (h : fetchOperand s m = .ok f)
    (hpc : s'.pc = s.pc) (hr : ∀ a ∈ f.reads, s'.readByte a = s.readByte a) : fetchOperand s' m = .ok f := by
  have hreads := (fetchOperand_ok h).2
  cases m with
  | none => exact h
  | some md =>
    obtain hw | hw | hw := Mode.width_cases md <;> simp [hw] at hreads <;> rw [hreads] at hr <;> simp at hr
    · simpa [fetchOperand, hw] using h
    · simpa [fetchOperand, hw, hpc, hr] using h
    · simpa [fetchOperand, hw, hpc, hr.1, hr.2] using h

/-- Under the invariant an operand that fits in the range is fetched. -/
theorem State.Inv.fetchOperand {s : State} (h : s.Inv) {m : Option Mode} {len : Nat}
    (hw : (m.map Mode.width).getD 0 + 1 ≤ len) (hl : s.pc + len ≤ s.rangeEnd) :
    ∃ f, Sys2Proof.Machine.fetchOperand s m = .ok f :=
  fetchOperand_readable fun _ h1 h2 => h.readByte (by omega) (by omega)

/-! ### The status of R191 -/

/-- Exhausted: TERMINAL, whatever the opcode is. -/
theorem pickStatus_exhausted {pc e : Nat} (h : e ≤ pc) (c : OpClass) (len : Nat) :
    pickStatus pc e c len = .terminal := by
  simp [pickStatus, h]

/-- A class with a mode whose length does not fit: TRUNCATED. -/
theorem pickStatus_truncated {pc e len : Nat} {c : OpClass} {md : Mode} (hm : c.mode = some md) (h : pc < e)
    (hl : e < pc + len) : pickStatus pc e c len = .truncated := by
  cases c <;> simp_all [pickStatus, OpClass.mode, Nat.not_le.mpr h]

/-- A class with a mode whose length fits: OK. -/
theorem pickStatus_ok {pc e len : Nat} {c : OpClass} {md : Mode} (hm : c.mode = some md) (h : pc < e)
    (hl : pc + len ≤ e) : pickStatus pc e c len = .ok := by
  cases c <;> simp_all [pickStatus, OpClass.mode, Nat.not_le.mpr h]

/-! ### The shared step -/

/-- In Exhausted the step is the terminal record (R93). -/
theorem decodeAs_exhausted {s : State} (h : s.rangeEnd ≤ s.pc) (op : Byte) (c : OpClass) :
    decodeAs op c s = .next s.terminalStep := by
  simp [decodeAs, pickStatus_exhausted h]

/-- A length that does not fit is the truncation clamp (R92). -/
theorem decodeAs_truncated {s : State} {op : Byte} {c : OpClass} {md : Mode} (hm : c.mode = some md)
    (h : s.pc < s.rangeEnd) (hl : s.rangeEnd < s.pc + lengthRom op) :
    decodeAs op c s = .next (s.truncateStep op c) := by
  simp [decodeAs, pickStatus_truncated hm h hl]

/-- A length that fits is the normal advance, once the operand is fetched (R92). -/
theorem decodeAs_ok {s : State} {op : Byte} {c : OpClass} {md : Mode} {f : Fetched} (hm : c.mode = some md)
    (h : s.pc < s.rangeEnd) (hl : s.pc + lengthRom op ≤ s.rangeEnd) (hf : fetchOperand s c.mode = .ok f) :
    decodeAs op c s = .next (s.advanceStep op c .ok (lengthRom op) f) := by
  simp [decodeAs, pickStatus_ok hm h hl, hf]

/-- An IllegalMode opcode in Ready (R178). -/
theorem decodeAs_illegalMode {s : State} (h : s.pc < s.rangeEnd) (op : Byte) (mn : Mnemonic) :
    decodeAs op (.illegalMode mn) s =
      .next (s.advanceStep op (.illegalMode mn) .illegalMode (lengthRom op) ⟨none, []⟩) := by
  simp [decodeAs, pickStatus, Nat.not_le.mpr h]

/-- An Unknown opcode in Ready (R166, R180). -/
theorem decodeAs_unknown {s : State} (h : s.pc < s.rangeEnd) (op : Byte) :
    decodeAs op .unknown s = .next (s.advanceStep op .unknown .unknownOpcode (lengthRom op) ⟨none, []⟩) := by
  simp [decodeAs, pickStatus, Nat.not_le.mpr h]

/-- Everything a next state of the shared step can be: the terminal record, the truncation clamp, or the normal advance
with its operand fetched. -/
theorem decodeAs_cases {s t : State} {op : Byte} {c : OpClass} (h : decodeAs op c s = .next t) :
    (s.rangeEnd ≤ s.pc ∧ t = s.terminalStep) ∨
    (s.pc < s.rangeEnd ∧ s.rangeEnd < s.pc + lengthRom op ∧ c.mode.isSome ∧ t = s.truncateStep op c) ∨
    (s.pc < s.rangeEnd ∧ ∃ st f, fetchOperand s c.mode = .ok f ∧ t = s.advanceStep op c st (lengthRom op) f ∧
      (c.mode.isSome → s.pc + lengthRom op ≤ s.rangeEnd) ∧ st ≠ .terminal) := by
  obtain hready | hex := Nat.lt_or_ge s.pc s.rangeEnd
  case inr =>
    rw [decodeAs_exhausted hex] at h
    cases h
    exact .inl ⟨hex, rfl⟩
  cases hm : c.mode with
  | none =>
    cases c with
    | special mn md => cases hm
    | generic mn md => cases hm
    | illegalMode mn =>
      rw [decodeAs_illegalMode hready] at h
      cases h
      exact .inr (.inr ⟨hready, _, _, rfl, rfl, by simp, by decide⟩)
    | unknown =>
      rw [decodeAs_unknown hready] at h
      cases h
      exact .inr (.inr ⟨hready, _, _, rfl, rfl, by simp, by decide⟩)
  | some md =>
    by_cases hl : s.rangeEnd < s.pc + lengthRom op
    · rw [decodeAs_truncated hm hready hl] at h
      cases h
      exact .inr (.inl ⟨hready, hl, by simp, rfl⟩)
    · have hl' : s.pc + lengthRom op ≤ s.rangeEnd := by omega
      simp only [decodeAs, pickStatus_ok hm hready hl'] at h
      split at h
      case h_1 f hf => cases h; exact .inr (.inr ⟨hready, _, f, hm ▸ hf, rfl, fun _ => hl', by decide⟩)
      case h_2 => cases h

/-- The frame of the shared step: it writes the cursor and the reply only (R92), and never lowers the cursor. -/
theorem decodeAs_frame {s t : State} {op : Byte} {c : OpClass} (h : decodeAs op c s = .next t) :
    ∃ p x, t = s.emit p x ∧ s.pc ≤ p := by
  obtain ⟨hr, rfl⟩ | ⟨hr, hl, -, rfl⟩ | ⟨hr, st, f, -, rfl, -, -⟩ := decodeAs_cases h
  · exact ⟨_, _, rfl, Nat.le_refl _⟩
  · exact ⟨_, _, rfl, by omega⟩
  · exact ⟨_, _, rfl, by omega⟩

/-- The shared step is never refused. -/
theorem decodeAs_not_refused (s : State) (op : Byte) (c : OpClass) (r : Refusal) : decodeAs op c s ≠ .refused r := by
  unfold decodeAs
  split <;> (try split) <;> exact nofun

end Sys2Proof.Machine
end

