-- ==== Sys2Proof/Laws/Exec.lean ====
section
/-!
SUPPORT. Every meaning as the shared step: the class of an instruction under the parameters, and `exec` in its terms.
-/

namespace Sys2Proof.Machine

/-- The class under which an instruction's meaning runs the shared step. -/
def instrClass (p : Params) : Instr → OpClass
  | .brk => .special .brk .imp | .rti => .special .rti .imp | .rts => .special .rts .imp | .php => .special .php .imp
  | .plp => .special .plp .imp | .pha => .special .pha .imp | .pla => .special .pla .imp | .tax => .special .tax .imp
  | .txa => .special .txa .imp | .tay => .special .tay .imp | .tya => .special .tya .imp | .tsx => .special .tsx .imp
  | .txs => .special .txs .imp | .dex => .special .dex .imp | .dey => .special .dey .imp | .inx => .special .inx .imp
  | .iny => .special .iny .imp | .clc => .special .clc .imp | .sec => .special .sec .imp | .cli => .special .cli .imp
  | .sei => .special .sei .imp | .clv => .special .clv .imp | .cld => .special .cld .imp | .sed => .special .sed .imp
  | .nop => .special .nop .imp | .bpl => .special .bpl .rel | .bmi => .special .bmi .rel | .bvc => .special .bvc .rel
  | .bvs => .special .bvs .rel | .bcc => .special .bcc .rel | .bcs => .special .bcs .rel | .bne => .special .bne .rel
  | .beq => .special .beq .rel | .jsr => .special .jsr .abs
  | .ora m => class01 .ora m
  | .and m => class01 .and m
  | .eor m => class01 .eor m
  | .adc m => class01 .adc m
  | .sta m => class01 .sta m
  | .lda m => class01 .lda m
  | .cmp m => class01 .cmp m
  | .sbc m => class01 .sbc m
  | .bit m => class00 .bit m
  | .jmp _ m => class00 .jmp m
  | .sty m => class00 .sty m
  | .ldy m => class00 .ldy m
  | .cpy m => class00 .cpy m
  | .cpx m => class00 .cpx m
  | .asl m => class10 p .asl m
  | .rol m => class10 p .rol m
  | .lsr m => class10 p .lsr m
  | .ror m => class10 p .ror m
  | .stx m => class10 p .stx m
  | .ldx m => class10 p .ldx m
  | .dec m => class10 p .dec m
  | .inc m => class10 p .inc m
  | .unknown _ => .unknown

/-- `exec` is the shared step for the instruction's byte and class. -/
theorem exec_eq_decodeAs (i : Instr) (s : State) : exec i s = decodeAs (encode i) (instrClass s.params i) s := by
  cases i <;> rfl

/-- The frame of every instruction: the cursor, which is not lowered, and the reply. -/
theorem exec_emit {i : Instr} {s t : State} (h : exec i s = .next t) : ∃ p x, t = s.emit p x ∧ s.pc ≤ p := by
  rw [exec_eq_decodeAs] at h
  exact decodeAs_frame h

/-- The legal column of `MODE_01` (R69). -/
theorem class01_mode (mn : Mnemonic) (m : Mode01) : ∃ md, class01 mn m = .generic mn md := ⟨_, rfl⟩

/-- The legal column of `MODE_00` (R68). -/
theorem class00_mode (mn : Mnemonic) (m : Mode00) : ∃ md, class00 mn m = .generic mn md := ⟨_, rfl⟩

/-- A well-formed instruction's length is its opcode byte and its mode's operand bytes, and for BRK one more (R73, R74):
an operand that fits in the range lies inside it. -/
theorem width_lt_length {i : Instr} (h : i.wellFormed = true) (p : Params) :
    (((instrClass p i).mode.map Mode.width).getD 0) + 1 ≤ lengthRom (encode i) := by
  have hu : ∀ op : Byte, (Instr.unknown op).wellFormed = true → 0 + 1 ≤ lengthRom (encode (.unknown op)) := by decide
  obtain ⟨_, _, _, _, z⟩ := p
  cases i
  case unknown op => exact hu op h
  case jmp k m => cases k <;> cases m <;> first | exact Nat.le_of_ble_eq_true rfl | exact absurd h (by decide)
  all_goals first
    | exact Nat.le_of_ble_eq_true rfl
    | (rename_i m; cases m <;> cases z <;> exact Nat.le_of_ble_eq_true rfl)

/-- The class of a byte's instruction is the classifier's, under the decoder's own `ZPY_SUBST` (R62). -/
theorem instrClass_decode (p : Params) (op : Byte) : instrClass p (decode op) = classify p.zpySubst op := by
  have h : ∀ (z : Bool) (op : Byte), instrClass ⟨"", "", "", "", z⟩ (decode op) = classify z op := by decide
  rw [← h]
  generalize decode op = i
  cases i <;> rfl

/-- Under the invariant every well-formed instruction completes. -/
theorem exec_completes {i : Instr} {s : State} (h : s.Inv) (hi : i.wellFormed = true) : ∃ t, exec i s = .next t := by
  rw [exec_eq_decodeAs]
  have hw := width_lt_length hi s.params
  obtain hr | hr := Nat.lt_or_ge s.pc s.rangeEnd
  case inr => exact ⟨_, decodeAs_exhausted hr _ _⟩
  cases hm : (instrClass s.params i).mode with
  | none =>
    cases hc : instrClass s.params i with
    | special a b => rw [hc] at hm; cases hm
    | generic a b => rw [hc] at hm; cases hm
    | illegalMode mn => exact ⟨_, decodeAs_illegalMode hr _ _⟩
    | unknown => exact ⟨_, decodeAs_unknown hr _⟩
  | some md =>
    by_cases hl : s.rangeEnd < s.pc + lengthRom (encode i)
    · exact ⟨_, decodeAs_truncated hm hr hl⟩
    · obtain ⟨f, hf⟩ := h.fetchOperand hw (by omega)
      exact ⟨_, decodeAs_ok hm hr (by omega) hf⟩

end Sys2Proof.Machine
end

