-- ==== Sys2Proof/Laws/Commands.lean ====
section
/-!
SUPPORT. What the commands can do: the inversion of DECODE_ONE and of one step, and the unfoldings of the loop of DECODE_ALL.
-/

namespace Sys2Proof.Machine

/-- DECODE_ONE in Exhausted (R93). -/
theorem decodeOne_exhausted {s : State} (h : s.rangeEnd ≤ s.pc) : decodeOne s = .next s.terminalStep := by
  simp [decodeOne, (State.not_ready_iff s).mpr h]

/-- DECODE_ONE in Ready runs the instruction of the byte it reads (R92). -/
theorem decodeOne_ready {s : State} {op : Byte} (h : s.pc < s.rangeEnd) (hb : s.readByte s.pc = .ok op) :
    decodeOne s = exec (decode op) s := by
  simp [decodeOne, (State.ready_iff s).mpr h, hb]

/-- Everything a next state of DECODE_ONE can be. -/
theorem decodeOne_cases {s t : State} (h : decodeOne s = .next t) :
    (s.rangeEnd ≤ s.pc ∧ t = s.terminalStep) ∨
    (s.pc < s.rangeEnd ∧ ∃ op, s.readByte s.pc = .ok op ∧ exec (decode op) s = .next t) := by
  obtain hr | hr := Nat.lt_or_ge s.pc s.rangeEnd
  · cases hb : s.readByte s.pc with
    | ok op => exact .inr ⟨hr, op, rfl, by rw [← decodeOne_ready hr hb, h]⟩
    | error r => simp [decodeOne, (State.ready_iff s).mpr hr, hb] at h
  · rw [decodeOne_exhausted hr] at h
    cases h
    exact .inl ⟨hr, rfl⟩

/-- The frame of DECODE_ONE: the cursor, which is not lowered, and the reply, which is its record (R92). -/
theorem decodeOne_emit {s t : State} (h : decodeOne s = .next t) : ∃ p x, t = s.emit p x ∧ s.pc ≤ p := by
  obtain ⟨-, rfl⟩ | ⟨-, op, -, h⟩ := decodeOne_cases h
  · exact ⟨_, _, rfl, Nat.le_refl _⟩
  · exact exec_emit h

/-- One round of DECODE_ALL's loop in Ready. -/
theorem decodeAllLoop_ready {s t : State} (k : Nat) (acc : List Emission) (h : s.pc < s.rangeEnd)
    (hd : decodeOne s = .next t) :
    decodeAllLoop (k + 1) acc s = decodeAllLoop k (acc ++ t.reply.emissions) t := by
  simp [decodeAllLoop, (State.ready_iff s).mpr h, hd]

/-- DECODE_ALL's loop in Exhausted: the one terminal record is added. -/
theorem decodeAllLoop_exhausted {s : State} (k : Nat) (acc : List Emission) (h : s.rangeEnd ≤ s.pc) :
    decodeAllLoop k acc s =
      .next { s with reply := .records (acc ++ [⟨terminalRecord s, []⟩]) } := by
  cases k <;>
    simp [decodeAllLoop, decodeAllFinish, (State.not_ready_iff s).mpr h, decodeOne_exhausted h, State.terminalStep]

/-- The loop of DECODE_ALL puts the records collected so far before the ones it adds. -/
theorem decodeAllLoop_acc {k : Nat} {acc : List Emission} {s t : State} (h : decodeAllLoop k acc s = .next t) :
    ∃ ys, t.reply = .records (acc ++ ys) ∧
      ∀ acc' : List Emission, decodeAllLoop k acc' s = .next { t with reply := .records (acc' ++ ys) } := by
  have fin : ∀ {acc : List Emission} {s t : State}, decodeAllFinish acc s = .next t →
      ∃ ys, t.reply = .records (acc ++ ys) ∧
        ∀ acc' : List Emission, decodeAllFinish acc' s = .next { t with reply := .records (acc' ++ ys) } := by
    intro acc s t h
    obtain ⟨u, h1, h2⟩ := andThen_eq_next h
    cases h2
    exact ⟨_, rfl, fun acc' => by simp [decodeAllFinish, h1]⟩
  induction k generalizing acc s with
  | zero => exact fin h
  | succ k ih =>
    cases hr : s.ready
    · simp only [decodeAllLoop, hr] at h ⊢
      exact fin h
    · simp only [decodeAllLoop, hr, if_true] at h ⊢
      obtain ⟨u, h1, h2⟩ := andThen_eq_next h
      obtain ⟨ys, hy, hall⟩ := ih h2
      exact ⟨u.reply.emissions ++ ys, by simpa using hy, fun acc' => by simp [h1, hall]⟩

/-- Everything an action that goes on can do. -/
theorem perform_cases {c : CallerAction} {s t : State} (h : perform c s = .next t) :
    (∃ bytes start stop, c = .construct bytes start stop ∧ t = constructDecoder bytes start stop s) ∨
    (c = .decodeOne ∧ decodeOne s = .next t) ∨ (c = .decodeAll ∧ decodeAll s = .next t) ∨
    (c = .pull ∧ pull s = .next t) ∨ (c = .newAdapter ∧ t = { s with tDone := false }) ∨ (c = .idle ∧ t = s) := by
  cases c with
  | construct bytes start stop => cases h; exact .inl ⟨_, _, _, rfl, rfl⟩
  | decodeOne => exact .inr (.inl ⟨rfl, h⟩)
  | decodeAll => exact .inr (.inr (.inl ⟨rfl, h⟩))
  | pull => exact .inr (.inr (.inr (.inl ⟨rfl, h⟩)))
  | newAdapter => cases h; exact .inr (.inr (.inr (.inr (.inl ⟨rfl, rfl⟩))))
  | idle => cases h; exact .inr (.inr (.inr (.inr (.inr ⟨rfl, rfl⟩))))
  | overlap => cases h
  | changeByte a b => cases h
  | beforeConstruct c => cases h

/-- A step is the caller's next action on the state it has left the waiting list of (log 3). -/
theorem step_eq_perform (s : State) : step s = perform s.nextAction s.taken := by
  obtain ⟨p, m, a, b, c, d, r, pending⟩ := s
  cases pending <;> rfl

end Sys2Proof.Machine
end

