-- ==== Sys2Proof/Laws/PerInstr.lean ====
section
/-!
SUPPORT. A law about every instruction as syntax, one lemma per constructor: the lengths of R9.
-/

namespace Sys2Proof.Laws.LengthBounds

/-- A well-formed instruction's byte has length 1, 2 or 3 in the ROM (R9, R75). -/
def Statement (i : Instr) : Prop :=
  i.wellFormed = true → 1 ≤ lengthRom (encode i) ∧ lengthRom (encode i) ≤ 3

/-- The ROM holds lengths 1, 2 and 3 only. -/
theorem lengthRom_bounds : ∀ op : Byte, 1 ≤ lengthRom op ∧ lengthRom op ≤ 3 := by decide

theorem brk : Statement .brk := fun _ => lengthRom_bounds _
theorem rti : Statement .rti := fun _ => lengthRom_bounds _
theorem rts : Statement .rts := fun _ => lengthRom_bounds _
theorem php : Statement .php := fun _ => lengthRom_bounds _
theorem plp : Statement .plp := fun _ => lengthRom_bounds _
theorem pha : Statement .pha := fun _ => lengthRom_bounds _
theorem pla : Statement .pla := fun _ => lengthRom_bounds _
theorem tax : Statement .tax := fun _ => lengthRom_bounds _
theorem txa : Statement .txa := fun _ => lengthRom_bounds _
theorem tay : Statement .tay := fun _ => lengthRom_bounds _
theorem tya : Statement .tya := fun _ => lengthRom_bounds _
theorem tsx : Statement .tsx := fun _ => lengthRom_bounds _
theorem txs : Statement .txs := fun _ => lengthRom_bounds _
theorem dex : Statement .dex := fun _ => lengthRom_bounds _
theorem dey : Statement .dey := fun _ => lengthRom_bounds _
theorem inx : Statement .inx := fun _ => lengthRom_bounds _
theorem iny : Statement .iny := fun _ => lengthRom_bounds _
theorem clc : Statement .clc := fun _ => lengthRom_bounds _
theorem sec : Statement .sec := fun _ => lengthRom_bounds _
theorem cli : Statement .cli := fun _ => lengthRom_bounds _
theorem sei : Statement .sei := fun _ => lengthRom_bounds _
theorem clv : Statement .clv := fun _ => lengthRom_bounds _
theorem cld : Statement .cld := fun _ => lengthRom_bounds _
theorem sed : Statement .sed := fun _ => lengthRom_bounds _
theorem nop : Statement .nop := fun _ => lengthRom_bounds _
theorem bpl : Statement .bpl := fun _ => lengthRom_bounds _
theorem bmi : Statement .bmi := fun _ => lengthRom_bounds _
theorem bvc : Statement .bvc := fun _ => lengthRom_bounds _
theorem bvs : Statement .bvs := fun _ => lengthRom_bounds _
theorem bcc : Statement .bcc := fun _ => lengthRom_bounds _
theorem bcs : Statement .bcs := fun _ => lengthRom_bounds _
theorem bne : Statement .bne := fun _ => lengthRom_bounds _
theorem beq : Statement .beq := fun _ => lengthRom_bounds _
theorem jsr : Statement .jsr := fun _ => lengthRom_bounds _
theorem ora (m : Mode01) : Statement (.ora m) := fun _ => lengthRom_bounds _
theorem and (m : Mode01) : Statement (.and m) := fun _ => lengthRom_bounds _
theorem eor (m : Mode01) : Statement (.eor m) := fun _ => lengthRom_bounds _
theorem adc (m : Mode01) : Statement (.adc m) := fun _ => lengthRom_bounds _
theorem sta (m : Mode01) : Statement (.sta m) := fun _ => lengthRom_bounds _
theorem lda (m : Mode01) : Statement (.lda m) := fun _ => lengthRom_bounds _
theorem cmp (m : Mode01) : Statement (.cmp m) := fun _ => lengthRom_bounds _
theorem sbc (m : Mode01) : Statement (.sbc m) := fun _ => lengthRom_bounds _
theorem bit (m : Mode00) : Statement (.bit m) := fun _ => lengthRom_bounds _
theorem jmp (i : JmpIndex) (m : Mode00) : Statement (.jmp i m) := fun _ => lengthRom_bounds _
theorem sty (m : Mode00) : Statement (.sty m) := fun _ => lengthRom_bounds _
theorem ldy (m : Mode00) : Statement (.ldy m) := fun _ => lengthRom_bounds _
theorem cpy (m : Mode00) : Statement (.cpy m) := fun _ => lengthRom_bounds _
theorem cpx (m : Mode00) : Statement (.cpx m) := fun _ => lengthRom_bounds _
theorem asl (m : Mode10) : Statement (.asl m) := fun _ => lengthRom_bounds _
theorem rol (m : Mode10) : Statement (.rol m) := fun _ => lengthRom_bounds _
theorem lsr (m : Mode10) : Statement (.lsr m) := fun _ => lengthRom_bounds _
theorem ror (m : Mode10) : Statement (.ror m) := fun _ => lengthRom_bounds _
theorem stx (m : Mode10) : Statement (.stx m) := fun _ => lengthRom_bounds _
theorem ldx (m : Mode10) : Statement (.ldx m) := fun _ => lengthRom_bounds _
theorem dec (m : Mode10) : Statement (.dec m) := fun _ => lengthRom_bounds _
theorem inc (m : Mode10) : Statement (.inc m) := fun _ => lengthRom_bounds _
theorem unknown (op : Byte) : Statement (.unknown op) := fun _ => lengthRom_bounds _

end Sys2Proof.Laws.LengthBounds
end

