-- ==== Sys2Proof/Tests/Slice0.lean ====
section
/-!
SUPPORT. The model's own tests: the checks of WellFormed, one small step per instruction with its result taken from
spec/95_test_vectors.md, and for every statement with hypotheses a witness that meets them.
-/

namespace Sys2Proof.Tests

open Sys2Proof.Machine Sys2Proof.Claims

/-- A fresh decoder over a whole buffer. -/
def decoder (bytes : List Byte) : State := constructDecoder bytes none none State.reset

/-- A fresh decoder over a range of a buffer. -/
def decoderOver (bytes : List Byte) (start stop : Nat) : State := constructDecoder bytes (some start) (some stop) State.reset

/-- A fresh decoder over a whole buffer, with the caller's waiting actions. -/
def decoderWith (bytes : List Byte) (pending : List CallerAction) : State := { decoder bytes with pending := pending }

/-- A fresh decoder with `ZPY_SUBST` true. -/
def decoderZpy (bytes : List Byte) : State := { decoder bytes with params := { zpySubst := true } }

/-- A decoder whose cursor stands at the end of its range. -/
def exhausted : State := { decoder [0xEA] with pc := 1 }

/-- What a vector of 95_test_vectors.md gives of one record: status, text, `at`, the cursor's advance, reads. -/
def observe (o : Host.Outcome State Fault Refusal) : Option (Status × String × Nat × Nat × List Nat) :=
  match o with
  | .next t =>
    match t.reply with
    | .record x => some (x.record.status, x.record.text, x.record.index, t.pc - x.record.index, x.reads)
    | _ => none
  | _ => none

/-- The texts a command returned, and the cursor it left. -/
def observeTexts (o : Host.Outcome State Fault Refusal) : Option (List String × Nat) :=
  match o with
  | .next t => some (t.reply.emissions.map fun x => x.record.text, t.pc)
  | _ => none

/-! ### WellFormed: one ill-formed term for each check, refused -/

theorem test_wellFormed_bit : (Instr.bit .imm).wellFormed = false := by decide
theorem test_wellFormed_jmp : (Instr.jmp .two .imm).wellFormed = false ∧ (Instr.jmp .three .imm).wellFormed = false := by decide
theorem test_wellFormed_stx : (Instr.stx .acc).wellFormed = false ∧ (Instr.stx .ill6).wellFormed = false := by decide
theorem test_wellFormed_ldx : (Instr.ldx .acc).wellFormed = false ∧ (Instr.ldx .ill6).wellFormed = false := by decide
theorem test_wellFormed_dec : (Instr.dec .acc).wellFormed = false := by decide
theorem test_wellFormed_inc : (Instr.inc .acc).wellFormed = false := by decide
theorem test_wellFormed_unknown : (Instr.unknown 0x00).wellFormed = false ∧ (Instr.unknown 0x6D).wellFormed = false := by decide
/-- The terms beside the refused ones are accepted. -/
theorem test_wellFormed_accepts :
    (Instr.bit .zp).wellFormed = true ∧ (Instr.sty .imm).wellFormed = true ∧ (Instr.asl .acc).wellFormed = true ∧
    (Instr.stx .ill4).wellFormed = true ∧ (Instr.asl .ill6).wellFormed = true ∧
    (Instr.unknown 0x1C).wellFormed = true ∧ (Instr.unknown 0x03).wellFormed = true := by decide

/-! ### Decoding: bytes written out from R61's pattern `aaabbbcc` and R63's table, at least one of each family -/

theorem test_decode_special : decode 0b00100000 = .jsr ∧ decode 0b11010000 = .bne ∧ decode 0b10011010 = .txs := by decide
theorem test_decode_family01 : decode 0b100_010_01 = .sta .imm ∧ decode 0b111_110_01 = .sbc .aby := by decide
theorem test_decode_family00 : decode 0b001_011_00 = .bit .abs ∧ decode 0b110_000_00 = .cpy .imm := by decide
theorem test_decode_family10 : decode 0b010_110_10 = .lsr .ill6 ∧ decode 0b101_101_10 = .ldx .zpx := by decide
theorem test_decode_family11 : decode 0b101_001_11 = .unknown 0xA7 := by decide
/-- 95 S1's bytes as a table word: bit 0 is the opcode's. -/
theorem test_decode_tableWord :
    decodeTableWord 24 0xF00F6D = some (.adc .abs) ∧ decodeTableWord 8 0x6D = some (.adc .abs) ∧
    decodeTableWord 0 0x6D = none := by decide
/-- V5's word is stored at the cursor, its operand bytes after it, and runs next. -/
theorem test_fetchWord : observe (step (State.reset.withFetchWord 24 0x123420)) = some (.ok, "JSR $1234", 0, 3, [0, 1, 2]) := by
  decide

/-! ### One step per instruction: 95_test_vectors.md table 2.1 (each byte followed by 12 34) -/

theorem test_brk : observe (step (decoder [0x00, 0x12, 0x34])) = some (.ok, "BRK", 0, 2, [0]) := by decide
theorem test_rti : observe (step (decoder [0x40, 0x12, 0x34])) = some (.ok, "RTI", 0, 1, [0]) := by decide
theorem test_rts : observe (step (decoder [0x60, 0x12, 0x34])) = some (.ok, "RTS", 0, 1, [0]) := by decide
theorem test_php : observe (step (decoder [0x08, 0x12, 0x34])) = some (.ok, "PHP", 0, 1, [0]) := by decide
theorem test_plp : observe (step (decoder [0x28, 0x12, 0x34])) = some (.ok, "PLP", 0, 1, [0]) := by decide
theorem test_pha : observe (step (decoder [0x48, 0x12, 0x34])) = some (.ok, "PHA", 0, 1, [0]) := by decide
theorem test_pla : observe (step (decoder [0x68, 0x12, 0x34])) = some (.ok, "PLA", 0, 1, [0]) := by decide
theorem test_tax : observe (step (decoder [0xAA, 0x12, 0x34])) = some (.ok, "TAX", 0, 1, [0]) := by decide
theorem test_txa : observe (step (decoder [0x8A, 0x12, 0x34])) = some (.ok, "TXA", 0, 1, [0]) := by decide
theorem test_tay : observe (step (decoder [0xA8, 0x12, 0x34])) = some (.ok, "TAY", 0, 1, [0]) := by decide
theorem test_tya : observe (step (decoder [0x98, 0x12, 0x34])) = some (.ok, "TYA", 0, 1, [0]) := by decide
theorem test_tsx : observe (step (decoder [0xBA, 0x12, 0x34])) = some (.ok, "TSX", 0, 1, [0]) := by decide
theorem test_txs : observe (step (decoder [0x9A, 0x12, 0x34])) = some (.ok, "TXS", 0, 1, [0]) := by decide
theorem test_dex : observe (step (decoder [0xCA, 0x12, 0x34])) = some (.ok, "DEX", 0, 1, [0]) := by decide
theorem test_dey : observe (step (decoder [0x88, 0x12, 0x34])) = some (.ok, "DEY", 0, 1, [0]) := by decide
theorem test_inx : observe (step (decoder [0xE8, 0x12, 0x34])) = some (.ok, "INX", 0, 1, [0]) := by decide
theorem test_iny : observe (step (decoder [0xC8, 0x12, 0x34])) = some (.ok, "INY", 0, 1, [0]) := by decide
theorem test_clc : observe (step (decoder [0x18, 0x12, 0x34])) = some (.ok, "CLC", 0, 1, [0]) := by decide
theorem test_sec : observe (step (decoder [0x38, 0x12, 0x34])) = some (.ok, "SEC", 0, 1, [0]) := by decide
theorem test_cli : observe (step (decoder [0x58, 0x12, 0x34])) = some (.ok, "CLI", 0, 1, [0]) := by decide
theorem test_sei : observe (step (decoder [0x78, 0x12, 0x34])) = some (.ok, "SEI", 0, 1, [0]) := by decide
theorem test_clv : observe (step (decoder [0xB8, 0x12, 0x34])) = some (.ok, "CLV", 0, 1, [0]) := by decide
theorem test_cld : observe (step (decoder [0xD8, 0x12, 0x34])) = some (.ok, "CLD", 0, 1, [0]) := by decide
theorem test_sed : observe (step (decoder [0xF8, 0x12, 0x34])) = some (.ok, "SED", 0, 1, [0]) := by decide
theorem test_nop : observe (step (decoder [0xEA, 0x12, 0x34])) = some (.ok, "NOP", 0, 1, [0]) := by decide

/-! The branches and JSR: 95 V1 to V5, and 41_special.md's examples. -/

theorem test_bpl : observe (step (decoder [0x10, 0x7F])) = some (.ok, "BPL $7F", 0, 2, [0, 1]) := by decide
theorem test_bmi : observe (step (decoder [0x30, 0x80])) = some (.ok, "BMI $80", 0, 2, [0, 1]) := by decide
theorem test_bvc : observe (step (decoder [0x50, 0x12])) = some (.ok, "BVC $12", 0, 2, [0, 1]) := by decide
theorem test_bvs : observe (step (decoder [0x70, 0x12])) = some (.ok, "BVS $12", 0, 2, [0, 1]) := by decide
theorem test_bcc : observe (step (decoder [0x90, 0x12])) = some (.ok, "BCC $12", 0, 2, [0, 1]) := by decide
theorem test_bcs : observe (step (decoder [0xB0, 0x12])) = some (.ok, "BCS $12", 0, 2, [0, 1]) := by decide
theorem test_bne : observe (step (decoder [0xD0, 0x00])) = some (.ok, "BNE $00", 0, 2, [0, 1]) := by decide
theorem test_beq : observe (step (decoder [0xF0, 0xFF])) = some (.ok, "BEQ $FF", 0, 2, [0, 1]) := by decide
theorem test_jsr : observe (step (decoder [0x20, 0x34, 0x12])) = some (.ok, "JSR $1234", 0, 3, [0, 1, 2]) := by decide

/-! Family 01. -/

theorem test_ora : observe (step (decoder [0x01, 0x12, 0x34])) = some (.ok, "ORA ($12,X)", 0, 2, [0, 1]) := by decide
theorem test_and : observe (step (decoder [0x25, 0x12, 0x34])) = some (.ok, "AND $12", 0, 2, [0, 1]) := by decide
theorem test_eor : observe (step (decoder [0x49, 0x12, 0x34])) = some (.ok, "EOR #$12", 0, 2, [0, 1]) := by decide
theorem test_adc : observe (step (decoder [0x6D, 0x12, 0x34])) = some (.ok, "ADC $3412", 0, 3, [0, 1, 2]) := by decide
theorem test_sta : observe (step (decoder [0x91, 0x12, 0x34])) = some (.ok, "STA ($12),Y", 0, 2, [0, 1]) := by decide
theorem test_lda : observe (step (decoder [0xB5, 0x12, 0x34])) = some (.ok, "LDA $12,X", 0, 2, [0, 1]) := by decide
theorem test_cmp : observe (step (decoder [0xD9, 0x12, 0x34])) = some (.ok, "CMP $3412,Y", 0, 3, [0, 1, 2]) := by decide
theorem test_sbc : observe (step (decoder [0xFD, 0x12, 0x34])) = some (.ok, "SBC $3412,X", 0, 3, [0, 1, 2]) := by decide

/-! Family 00. -/

theorem test_bit : observe (step (decoder [0x24, 0x12, 0x34])) = some (.ok, "BIT $12", 0, 2, [0, 1]) := by decide
theorem test_jmp : observe (step (decoder [0x4C, 0x12, 0x34])) = some (.ok, "JMP $3412", 0, 3, [0, 1, 2]) := by decide
theorem test_sty : observe (step (decoder [0x94, 0x12, 0x34])) = some (.ok, "STY $12,X", 0, 2, [0, 1]) := by decide
theorem test_ldy : observe (step (decoder [0xA0, 0x12, 0x34])) = some (.ok, "LDY #$12", 0, 2, [0, 1]) := by decide
theorem test_cpy : observe (step (decoder [0xDC, 0x12, 0x34])) = some (.ok, "CPY $3412,X", 0, 3, [0, 1, 2]) := by decide
theorem test_cpx : observe (step (decoder [0xE4, 0x12, 0x34])) = some (.ok, "CPX $12", 0, 2, [0, 1]) := by decide

/-! Family 10. -/

theorem test_asl : observe (step (decoder [0x0A, 0x12, 0x34])) = some (.ok, "ASL A", 0, 1, [0]) := by decide
theorem test_rol : observe (step (decoder [0x2E, 0x12, 0x34])) = some (.ok, "ROL $3412", 0, 3, [0, 1, 2]) := by decide
theorem test_lsr : observe (step (decoder [0x46, 0x12, 0x34])) = some (.ok, "LSR $12", 0, 2, [0, 1]) := by decide
theorem test_ror : observe (step (decoder [0x76, 0x12, 0x34])) = some (.ok, "ROR $12,X", 0, 2, [0, 1]) := by decide
theorem test_stx : observe (step (decoder [0x96, 0x12, 0x34])) = some (.ok, "STX $12,X", 0, 2, [0, 1]) := by decide
theorem test_ldx : observe (step (decoder [0xBE, 0x12, 0x34])) = some (.ok, "LDX $3412,X", 0, 3, [0, 1, 2]) := by decide
theorem test_dec : observe (step (decoder [0xC6, 0x12, 0x34])) = some (.ok, "DEC $12", 0, 2, [0, 1]) := by decide
theorem test_inc : observe (step (decoder [0xFE, 0x12, 0x34])) = some (.ok, "INC $3412,X", 0, 3, [0, 1, 2]) := by decide

/-! The ILL columns (44_family10.md R178). -/

theorem test_asl_illegal : observe (step (decoder [0x12, 0x12, 0x34])) = some (.illegalMode, "ASL ???", 0, 1, [0]) := by decide
theorem test_rol_illegal : observe (step (decoder [0x3A, 0x12, 0x34])) = some (.illegalMode, "ROL ???", 0, 1, [0]) := by decide
theorem test_lsr_illegal : observe (step (decoder [0x52, 0x12, 0x34])) = some (.illegalMode, "LSR ???", 0, 1, [0]) := by decide
theorem test_ror_illegal : observe (step (decoder [0x7A, 0x12, 0x34])) = some (.illegalMode, "ROR ???", 0, 1, [0]) := by decide
theorem test_dec_illegal : observe (step (decoder [0xD2, 0x12, 0x34])) = some (.illegalMode, "DEC ???", 0, 1, [0]) := by decide
theorem test_inc_illegal : observe (step (decoder [0xFA, 0x12, 0x34])) = some (.illegalMode, "INC ???", 0, 1, [0]) := by decide

/-! The Unknown class. -/

theorem test_unknown_family11 : observe (step (decoder [0xFF, 0x12, 0x34])) = some (.unknownOpcode, "???", 0, 1, [0]) := by decide
theorem test_unknown_index0 : observe (step (decoder [0x0C, 0x12, 0x34])) = some (.unknownOpcode, "???", 0, 1, [0]) := by decide

/-! ### Corner cases of 95_test_vectors.md: section 1, and 2.2 to 2.4 -/

/-- S7: cut after its opcode byte. -/
theorem test_adc_cut : observe (step (decoder [0x6D])) = some (.truncated, "ADC END", 0, 1, [0]) := by decide
/-- S8. -/
theorem test_brk_cut : observe (step (decoder [0x00])) = some (.truncated, "BRK", 0, 1, [0]) := by decide
/-- V12. -/
theorem test_bne_cut : observe (step (decoder [0xD0])) = some (.truncated, "BNE END", 0, 1, [0]) := by decide
/-- V14: the range's end cuts what the buffer holds whole. -/
theorem test_range_cut : observe (step (decoderOver [0xAD, 0x00, 0x02, 0xE8] 0 2)) = some (.truncated, "LDA END", 0, 2, [0]) := by
  decide
/-- V20: the first step of a range in the middle of the buffer. -/
theorem test_subrange : observe (step (decoderOver [0xFF, 0xE8, 0xC8, 0xFF] 1 3)) = some (.ok, "INX", 1, 1, [1]) := by decide
/-- V26. -/
theorem test_jmp_6C : observe (step (decoder [0x6C, 0xFC, 0xFF])) = some (.ok, "JMP $FFFC", 0, 3, [0, 1, 2]) := by decide
/-- V28: the bytes 96 and BE index by Y. -/
theorem test_stx_zpy : observe (step (decoderZpy [0x96, 0x10])) = some (.ok, "STX $10,Y", 0, 2, [0, 1]) := by decide
theorem test_ldx_aby : observe (step (decoderZpy [0xBE, 0x00, 0x20])) = some (.ok, "LDX $2000,Y", 0, 3, [0, 1, 2]) := by decide
/-- V33: the terminal record, twice the same. -/
theorem test_terminal : observe (step exhausted) = some (.terminal, ".END", 1, 0, []) := by decide
/-- V38: another terminal sentinel. -/
theorem test_sentinel : observe (step { exhausted with params := { terminal := "*" } }) = some (.terminal, "*", 1, 0, []) := by
  decide
/-- 60_exceptions.md R190: the codes. -/
theorem test_status_codes :
    [Status.ok, .unknownOpcode, .illegalMode, .truncated, .terminal].map Status.code = [0, 1, 2, 3, 4] := by decide

/-! ### The other commands -/

/-- R90's example. -/
theorem test_construct_example :
    (constructDecoder [0, 0, 0, 0, 0, 0, 0, 0] (some 2) (some 100) State.reset).rangeEnd = 8 ∧
    (constructDecoder [0, 0, 0, 0, 0, 0, 0, 0] (some 2) (some 100) State.reset).pc = 2 := by decide
/-- V15 to V17: a start above N, above the end, and equal to it. -/
theorem test_construct_clamps :
    (decoderOver [0xEA, 0xEA] 5 2).pc = 2 ∧ (decoderOver [0xEA, 0xEA] 5 2).rangeEnd = 2 ∧
    (decoderOver [0xEA, 0xEA, 0xEA] 2 1).pc = 2 ∧ (decoderOver [0xEA, 0xEA, 0xEA] 2 1).rangeEnd = 2 ∧
    (decoderOver [0xEA, 0xEA] 1 1).ready = false := by decide
/-- R94's example. -/
theorem test_decodeAll : observeTexts (decodeAll (decoder [0xE8, 0xE8])) = some (["INX", "INX", ".END"], 2) := by decide
/-- V36. -/
theorem test_decodeAll_exhausted : observeTexts (decodeAll exhausted) = some ([".END"], 1) := by decide
/-- V34, its first item; the item that sets `t_done`; and `End`. -/
theorem test_pull_item : observeTexts (pull (decoder [0xA9, 0x01, 0xEA])) = some (["LDA #$01"], 2) := by decide
theorem test_pull_terminal : pull exhausted = .next { exhausted with tDone := true, reply := .item (terminalEmission exhausted) } :=
  rfl
theorem test_pull_end : pull { exhausted with tDone := true } = .next { exhausted with tDone := true, reply := .endOfSequence } :=
  rfl
/-- 93 U5: a command before CONSTRUCT is refused (log 15). -/
theorem test_beforeConstruct :
    step (decoderWith [] [.beforeConstruct .decodeOne]) = .refused (.commandBeforeConstruct .decodeOne) := rfl
/-- The caller's first waiting action is the one taken (log 3). -/
theorem test_pending : observeTexts (step (decoderWith [0xE8, 0xE8] [.decodeAll])) = some (["INX", "INX", ".END"], 2) := by decide

/-! ### Witnesses: concrete states and operands that meet the hypotheses of a statement, one for each clause -/

theorem witness_DecodeOfEncode : (Instr.adc .abs).wellFormed = true ∧ (Instr.unknown 0x0C).wellFormed = true := by decide

/-- The first and the last address of a range, and the addresses just outside it. -/
theorem witness_ReadDefinedExactlyInRange :
    (decoderOver [0xFF, 0xE8, 0xC8, 0xFF] 1 3).Inv ∧ (decoderOver [0xFF, 0xE8, 0xC8, 0xFF] 1 3).readByte 1 = .ok 0xE8 ∧
    (decoderOver [0xFF, 0xE8, 0xC8, 0xFF] 1 3).readByte 2 = .ok 0xC8 ∧
    (decoderOver [0xFF, 0xE8, 0xC8, 0xFF] 1 3).readByte 0 = .error (.memReadUndefined 0) ∧
    (decoderOver [0xFF, 0xE8, 0xC8, 0xFF] 1 3).readByte 3 = .error (.memReadUndefined 3) := by
  repeat' apply And.intro
  all_goals first | rfl | decide

/-- A mode of each width, with its operand bytes readable. -/
theorem witness_OperandIsLittleEndian :
    Mode.acc.width = 0 ∧ Mode.rel.width = 1 ∧ Mode.abs.width = 2 ∧
    (decoder [0x6D, 0x0F, 0xF0]).readByte ((decoder [0x6D, 0x0F, 0xF0]).pc + 1) = .ok 0x0F ∧
    (decoder [0x6D, 0x0F, 0xF0]).readByte ((decoder [0x6D, 0x0F, 0xF0]).pc + 2) = .ok 0xF0 :=
  ⟨rfl, rfl, rfl, rfl, rfl⟩

theorem witness_MemoryStaysCanonical : Memory.wf (Memory.ofBytes [0xFF, 0xE8]) = true := by decide

/-- One step of each action that can go on. -/
theorem witness_StepKeepsInvariant :
    (decoder [0xEA]).Inv ∧ (∃ t, step (decoder [0xEA]) = .next t) ∧
    (decoderWith [0xEA] [.decodeAll]).Inv ∧ (∃ t, step (decoderWith [0xEA] [.decodeAll]) = .next t) ∧
    (decoderWith [0xEA] [.pull]).Inv ∧ (∃ t, step (decoderWith [0xEA] [.pull]) = .next t) ∧
    (decoderWith [0xEA] [.construct [] none none]).Inv ∧
    (∃ t, step (decoderWith [0xEA] [.construct [] none none]) = .next t) :=
  ⟨by decide, ⟨_, rfl⟩, by decide, ⟨_, rfl⟩, by decide, ⟨_, rfl⟩, by decide, ⟨_, rfl⟩⟩

theorem witness_StepKeepsReadsInRange :
    (decoder [0x6D, 0x0F, 0xF0]).Inv ∧ (decoder [0x6D, 0x0F, 0xF0]).ReplyWithin ∧
    ∃ t, step (decoder [0x6D, 0x0F, 0xF0]) = .next t :=
  ⟨by decide, by decide, ⟨_, rfl⟩⟩

theorem witness_LawfulActionCompletes :
    (decoder [0x6D]).Inv ∧ (decoder [0x6D]).nextAction.lawful = true ∧
    (decoderWith [0x6D] [.idle]).Inv ∧ (decoderWith [0x6D] [.idle]).nextAction.lawful = true := by
  decide

/-- A step with CONSTRUCT and one without. -/
theorem witness_OnlyConstructMovesBack :
    (∃ t, step (decoderWith [0xEA] [.construct [] none none]) = .next t) ∧
    (∃ t, step (decoder [0xEA]) = .next t) ∧
    ∀ bytes start stop, (decoder [0xEA]).nextAction ≠ .construct bytes start stop :=
  ⟨⟨_, rfl⟩, ⟨_, rfl⟩, fun _ _ _ h => nomatch h⟩

theorem witness_ExecFrame : ∃ t, exec (.adc .abs) (decoder [0x6D, 0x0F, 0xF0]) = .next t := ⟨_, rfl⟩

/-- With no action waiting, and with each command waiting; the byte read is the last of the range. -/
theorem witness_StepRunsDecodedInstruction :
    (decoder [0xEA]).pc < (decoder [0xEA]).rangeEnd ∧ (decoder [0xEA]).readByte (decoder [0xEA]).pc = .ok 0xEA ∧
    (decoder [0xEA]).pending = [] ∧ exhausted.pending = [] ∧
    (decoderWith [0xEA] [.decodeOne, .pull]).readByte 0 = .ok 0xEA ∧
    (decoderWith [0xEA] [.decodeOne, .pull]).pending = .decodeOne :: [.pull] ∧
    (decoderWith [0xEA] [.decodeAll]).pending = .decodeAll :: [] ∧
    (decoderWith [0xEA] [.pull]).pending = .pull :: [] ∧
    (decoderWith [0xEA] [.construct [0xE8] (some 0) none]).pending = .construct [0xE8] (some 0) none :: [] := by
  repeat' apply And.intro
  all_goals first | rfl | decide

theorem witness_FetchWordRunsNext : decodeTableWord 24 0xF00F6D = some (.adc .abs) ∧ decodeTableWord 8 0xFF = some (.unknown 0xFF) := by
  decide

theorem witness_ExhaustedReturnsTerminal : exhausted.rangeEnd ≤ exhausted.pc ∧ State.reset.rangeEnd ≤ State.reset.pc := by decide

theorem witness_ExecInExhaustedIsTerminal : exhausted.rangeEnd ≤ exhausted.pc := by decide

/-- One state for each of the five statuses, TRUNCATED and OK at the boundary of the length check. -/
theorem witness_StatusByPriority :
    (∃ t, decodeOne exhausted = .next t ∧ exhausted.rangeEnd ≤ exhausted.pc) ∧
    (∃ t, decodeOne (decoder [0xFF]) = .next t ∧ (decoder [0xFF]).readByte 0 = .ok 0xFF) ∧
    (∃ t, decodeOne (decoder [0x12]) = .next t ∧ (decoder [0x12]).readByte 0 = .ok 0x12) ∧
    (∃ t, decodeOne (decoder [0x6D, 0x0F]) = .next t ∧ (decoder [0x6D, 0x0F]).readByte 0 = .ok 0x6D) ∧
    (∃ t, decodeOne (decoder [0x6D, 0x0F, 0xF0]) = .next t ∧ (decoder [0x6D, 0x0F, 0xF0]).readByte 0 = .ok 0x6D) :=
  ⟨⟨_, rfl, by decide⟩, ⟨_, rfl, rfl⟩, ⟨_, rfl, rfl⟩, ⟨_, rfl, rfl⟩, ⟨_, rfl, rfl⟩⟩

/-- The truncated BRK, and a 3-byte instruction with one and with two of its bytes. -/
theorem witness_TruncationClampsCursor :
    ((decoder [0x00]).readByte 0 = .ok 0x00 ∧ (decoder [0x00]).rangeEnd < 0 + lengthRom 0x00) ∧
    ((decoder [0x20]).readByte 0 = .ok 0x20 ∧ (decoder [0x20]).rangeEnd < 0 + lengthRom 0x20) ∧
    ((decoder [0x20, 0x34]).readByte 0 = .ok 0x20 ∧ (decoder [0x20, 0x34]).rangeEnd < 0 + lengthRom 0x20) := by
  repeat' apply And.intro
  all_goals first | rfl | decide

/-- One state of each status. -/
theorem witness_ConditionsOnlyMoveCursor :
    exhausted.Inv ∧ (decoder [0xFF]).Inv ∧ (decoder [0x12]).Inv ∧ (decoder [0x6D, 0x0F]).Inv ∧ (decoder [0x6D, 0x0F, 0xF0]).Inv := by
  decide

theorem witness_ExhaustedIsAbsorbing :
    exhausted.rangeEnd ≤ exhausted.pc ∧ (∃ t, step exhausted = .next t) ∧
    ∀ bytes start stop, exhausted.nextAction ≠ .construct bytes start stop :=
  ⟨by decide, ⟨_, rfl⟩, fun _ _ _ h => nomatch h⟩

theorem witness_ReadyStepAdvances :
    (decoder [0xEA]).pc < (decoder [0xEA]).rangeEnd ∧ ∃ t, decodeOne (decoder [0xEA]) = .next t :=
  ⟨by decide, ⟨_, rfl⟩⟩

theorem witness_ReadTraceInOrder :
    (∃ t, decodeOne exhausted = .next t ∧ exhausted.rangeEnd ≤ exhausted.pc) ∧
    ∃ t, decodeOne (decoder [0xEA]) = .next t ∧ (decoder [0xEA]).pc < (decoder [0xEA]).rangeEnd :=
  ⟨⟨_, rfl, by decide⟩, ⟨_, rfl, by decide⟩⟩

/-- R110: the padding byte is not read, so `00 00` and `00 FF` agree on every byte that is. -/
theorem witness_DecodeOneDependsOnReadBytes :
    ∃ t x, decodeOne (decoder [0x00, 0x00]) = .next t ∧ t.reply = .record x ∧
      (decoder [0x00, 0xFF]).params = (decoder [0x00, 0x00]).params ∧
      (decoder [0x00, 0xFF]).rangeStart = (decoder [0x00, 0x00]).rangeStart ∧
      (decoder [0x00, 0xFF]).rangeEnd = (decoder [0x00, 0x00]).rangeEnd ∧
      (decoder [0x00, 0xFF]).pc = (decoder [0x00, 0x00]).pc ∧
      (∀ a ∈ x.reads, (decoder [0x00, 0xFF]).readByte a = (decoder [0x00, 0x00]).readByte a) ∧
      (decoder [0x00, 0xFF]).mem ≠ (decoder [0x00, 0x00]).mem :=
  ⟨_, _, rfl, rfl, rfl, rfl, rfl, rfl, fun a ha => by cases List.mem_singleton.mp ha; rfl, by decide⟩

theorem witness_SentinelsChangeTextsOnly :
    ∃ t x, decodeOne (decoder [0x6D]) = .next t ∧ t.reply = .record x ∧
      ({ truncated := "<end>" } : Params).zpySubst = (decoder [0x6D]).params.zpySubst :=
  ⟨_, _, rfl, rfl, rfl⟩

/-- JMP fits exactly in the range. -/
theorem witness_CursorAdvancesLinearly :
    (Instr.jmp .two .abs).wellFormed = true ∧
    (decoder [0x4C, 0xFF, 0xFF]).pc + lengthRom (encode (.jmp .two .abs)) ≤ (decoder [0x4C, 0xFF, 0xFF]).rangeEnd ∧
    ∃ t, exec (.jmp .two .abs) (decoder [0x4C, 0xFF, 0xFF]) = .next t :=
  ⟨by decide, by decide, ⟨_, rfl⟩⟩

theorem witness_DecodeAllCoversRange : (decoder [0x6D, 0x0F, 0xF0, 0xD0]).Inv ∧ exhausted.Inv := by decide

/-- An Exhausted decoder, and a Ready one. -/
theorem witness_DecodeAllIteratesDecodeOne :
    exhausted.rangeEnd ≤ exhausted.pc ∧ (decoder [0xE8]).Inv ∧ (decoder [0xE8]).pc < (decoder [0xE8]).rangeEnd ∧
    ∃ t u x ys, decodeOne (decoder [0xE8]) = .next t ∧ t.reply = .record x ∧ decodeAll t = .next u ∧ u.reply = .records ys :=
  ⟨by decide, by decide, by decide, _, _, _, _, rfl, rfl, rfl, rfl⟩

theorem witness_DecodeAllReadsOnce :
    (decoder [0x00, 0xFF, 0xEA]).Inv ∧
    ∃ t xs, decodeAll (decoder [0x00, 0xFF, 0xEA]) = .next t ∧ t.reply = .records xs :=
  ⟨by decide, _, _, rfl, rfl⟩

theorem witness_PullSequenceIsDecodeAll :
    (decoder [0xA9, 0x01]).Inv ∧ (decoder [0xA9, 0x01]).tDone = false ∧
    ∃ t xs, decodeAll (decoder [0xA9, 0x01]) = .next t ∧ t.reply = .records xs :=
  ⟨by decide, rfl, _, _, rfl, rfl⟩

/-- A new adapter, a PULL after the terminal record, and a PULL before it. -/
theorem witness_PullStepsOnce :
    (decoderWith [0xEA] [.newAdapter]).pending = .newAdapter :: [] ∧
    ({ exhausted with tDone := true } : State).tDone = true ∧ (decoder [0xEA]).tDone = false ∧
    ∃ t x, decodeOne (decoder [0xEA]) = .next t ∧ t.reply = .record x :=
  ⟨rfl, rfl, rfl, _, _, rfl, rfl⟩

theorem witness_UnlawfulActionsRefused :
    (decoderWith [0xEA] [.overlap]).pending = .overlap :: [] ∧
    (decoderWith [0xEA] [.changeByte 0 0xEB]).pending = .changeByte 0 0xEB :: [] ∧
    (decoderWith [] [.beforeConstruct .decodeOne]).pending = .beforeConstruct .decodeOne :: [] :=
  ⟨rfl, rfl, rfl⟩

theorem witness_IdleHoldsState : (decoderWith [0xEA] [.idle]).pending = .idle :: [] := rfl

/-- The padding byte just inside the range, and just outside it. -/
theorem witness_BrkSkipsPadding :
    (decoder [0x00, 0xFF]).pc + 2 ≤ (decoder [0x00, 0xFF]).rangeEnd ∧ (decoder [0x00]).pc + 1 = (decoder [0x00]).rangeEnd := by
  decide

theorem witness_StackOpcodesDecode :
    stackSpecials.length = 6 ∧ (decoder [0x48]).pc < (decoder [0x48]).rangeEnd := by decide

theorem witness_TransferOpcodesDecode :
    transferSpecials.length = 10 ∧ (decoder [0xAA]).pc < (decoder [0xAA]).rangeEnd := by decide

theorem witness_FlagOpcodesDecode :
    flagSpecials.length = 8 ∧ (decoder [0x18]).pc < (decoder [0x18]).rangeEnd := by decide

/-- The offset byte is the range's last byte, or lies just outside it. -/
theorem witness_BranchOpcodesDecode :
    branchSpecials.length = 8 ∧
    ((decoder [0xD0, 0x80]).pc + 2 ≤ (decoder [0xD0, 0x80]).rangeEnd ∧ (decoder [0xD0, 0x80]).readByte 1 = .ok 0x80) ∧
    ((decoder [0xD0]).pc < (decoder [0xD0]).rangeEnd ∧ (decoder [0xD0]).rangeEnd < (decoder [0xD0]).pc + 2) := by
  repeat' apply And.intro
  all_goals first | rfl | decide

/-- Three bytes, two, and one. -/
theorem witness_JsrDecodes :
    ((decoder [0x20, 0x34, 0x12]).pc + 3 ≤ (decoder [0x20, 0x34, 0x12]).rangeEnd ∧
      (decoder [0x20, 0x34, 0x12]).readByte 1 = .ok 0x34 ∧ (decoder [0x20, 0x34, 0x12]).readByte 2 = .ok 0x12) ∧
    ((decoder [0x20, 0x34]).pc < (decoder [0x20, 0x34]).rangeEnd ∧
      (decoder [0x20, 0x34]).rangeEnd < (decoder [0x20, 0x34]).pc + 3) ∧
    ((decoder [0x20]).pc < (decoder [0x20]).rangeEnd ∧ (decoder [0x20]).rangeEnd < (decoder [0x20]).pc + 3) := by
  repeat' apply And.intro
  all_goals first | rfl | decide

/-- A form of width 2 that fits, a form of width 1 that fits, and each cut short by one byte. -/
theorem witness_Family01Decodes :
    ((decoder [0x6D, 0x0F, 0xF0]).pc + 3 ≤ (decoder [0x6D, 0x0F, 0xF0]).rangeEnd ∧
      (decoder [0x6D, 0x0F, 0xF0]).readByte 1 = .ok 0x0F ∧ (decoder [0x6D, 0x0F, 0xF0]).readByte 2 = .ok 0xF0) ∧
    ((decoder [0x61, 0x00]).pc + 2 ≤ (decoder [0x61, 0x00]).rangeEnd ∧ (decoder [0x61, 0x00]).readByte 1 = .ok 0x00) ∧
    ((decoder [0x6D, 0x0F]).pc < (decoder [0x6D, 0x0F]).rangeEnd ∧
      (decoder [0x6D, 0x0F]).rangeEnd < (decoder [0x6D, 0x0F]).pc + (1 + formAbs.width)) ∧
    ((decoder [0x61]).pc < (decoder [0x61]).rangeEnd ∧ (decoder [0x61]).rangeEnd < (decoder [0x61]).pc + (1 + formIzx.width)) := by
  repeat' apply And.intro
  all_goals first | rfl | decide

theorem witness_Family00Decodes :
    ((decoder [0x4C, 0xFF, 0xFF]).pc + 3 ≤ (decoder [0x4C, 0xFF, 0xFF]).rangeEnd ∧
      (decoder [0x4C, 0xFF, 0xFF]).readByte 1 = .ok 0xFF ∧ (decoder [0x4C, 0xFF, 0xFF]).readByte 2 = .ok 0xFF) ∧
    ((decoder [0xA0, 0x07]).pc + 2 ≤ (decoder [0xA0, 0x07]).rangeEnd ∧ (decoder [0xA0, 0x07]).readByte 1 = .ok 0x07) ∧
    ((decoder [0x4C, 0xFF]).pc < (decoder [0x4C, 0xFF]).rangeEnd ∧
      (decoder [0x4C, 0xFF]).rangeEnd < (decoder [0x4C, 0xFF]).pc + (1 + formAbs.width)) ∧
    ((decoder [0xA0]).pc < (decoder [0xA0]).rangeEnd ∧ (decoder [0xA0]).rangeEnd < (decoder [0xA0]).pc + (1 + formImm.width)) := by
  repeat' apply And.intro
  all_goals first | rfl | decide

/-- The accumulator form (width 0), widths 1 and 2, an ILL row, and a form cut short. -/
theorem witness_ShiftOpcodesDecode :
    (decoder [0x0A]).pc + 1 ≤ (decoder [0x0A]).rangeEnd ∧
    ((decoder [0x16, 0x10]).pc + 2 ≤ (decoder [0x16, 0x10]).rangeEnd ∧ (decoder [0x16, 0x10]).readByte 1 = .ok 0x10) ∧
    ((decoder [0x1E, 0x00, 0x20]).pc + 3 ≤ (decoder [0x1E, 0x00, 0x20]).rangeEnd ∧
      (decoder [0x1E, 0x00, 0x20]).readByte 1 = .ok 0x00 ∧ (decoder [0x1E, 0x00, 0x20]).readByte 2 = .ok 0x20) ∧
    (decoder [0x12]).pc < (decoder [0x12]).rangeEnd ∧
    ((decoder [0x16]).pc < (decoder [0x16]).rangeEnd ∧ (decoder [0x16]).rangeEnd < (decoder [0x16]).pc + (1 + formZpx.width)) := by
  repeat' apply And.intro
  all_goals first | rfl | decide

/-- Both values of `ZPY_SUBST`, in column 5 and in column 7. -/
theorem witness_StxLdxFollowZpySubst :
    ((decoder [0x96, 0x10]).params.zpySubst = false ∧ (decoder [0x96, 0x10]).pc + 2 ≤ (decoder [0x96, 0x10]).rangeEnd ∧
      (decoder [0x96, 0x10]).readByte 1 = .ok 0x10) ∧
    ((decoderZpy [0x96, 0x10]).params.zpySubst = true ∧ (decoderZpy [0x96, 0x10]).pc + 2 ≤ (decoderZpy [0x96, 0x10]).rangeEnd ∧
      (decoderZpy [0x96, 0x10]).readByte 1 = .ok 0x10) ∧
    ((decoderZpy [0xBE, 0x00, 0x20]).params.zpySubst = true ∧
      (decoderZpy [0xBE, 0x00, 0x20]).pc + 3 ≤ (decoderZpy [0xBE, 0x00, 0x20]).rangeEnd ∧
      (decoderZpy [0xBE, 0x00, 0x20]).readByte 1 = .ok 0x00 ∧ (decoderZpy [0xBE, 0x00, 0x20]).readByte 2 = .ok 0x20) ∧
    ((decoderZpy [0xBE]).pc < (decoderZpy [0xBE]).rangeEnd ∧
      (decoderZpy [0xBE]).rangeEnd < (decoderZpy [0xBE]).pc + (1 + (absIndexedLdx true).width)) ∧
    (decoder [0x92]).pc < (decoder [0x92]).rangeEnd := by
  repeat' apply And.intro
  all_goals first | rfl | decide

theorem witness_DecIncDecode :
    ((decoder [0xC6, 0x12]).pc + 2 ≤ (decoder [0xC6, 0x12]).rangeEnd ∧ (decoder [0xC6, 0x12]).readByte 1 = .ok 0x12) ∧
    ((decoder [0xFE, 0x00, 0x20]).pc + 3 ≤ (decoder [0xFE, 0x00, 0x20]).rangeEnd ∧
      (decoder [0xFE, 0x00, 0x20]).readByte 1 = .ok 0x00 ∧ (decoder [0xFE, 0x00, 0x20]).readByte 2 = .ok 0x20) ∧
    (decoder [0xFA]).pc < (decoder [0xFA]).rangeEnd ∧
    ((decoder [0xC6]).pc < (decoder [0xC6]).rangeEnd ∧ (decoder [0xC6]).rangeEnd < (decoder [0xC6]).pc + (1 + formZp.width)) := by
  repeat' apply And.intro
  all_goals first | rfl | decide

theorem witness_IllegalModeBytes : (decoder [0xDA]).pc < (decoder [0xDA]).rangeEnd := by decide

/-- The first and the last byte of family 11, and a Ready state. -/
theorem witness_Family11BytesAreUnknown :
    packOpcode 0 0 3 = 0x03 ∧ packOpcode 7 7 3 = 0xFF ∧ (decoder [0xFF]).pc < (decoder [0xFF]).rangeEnd := by
  decide

theorem witness_Index0BytesAreUnknown :
    (decoder [0x1C]).pc < (decoder [0x1C]).rangeEnd ∧ (0x1C : Byte) ∈ ([0x04, 0x0C, 0x14, 0x1C] : List Byte) := by
  decide

end Sys2Proof.Tests
end

section
/-!
PROOFS of the statements on the scope and the parameters (spec 00_scope.md): reset as CONSTRUCT of the empty buffer (R31, R210),
where a read is defined (R11, R42), and what the sentinel texts reach (92 D2).
-/

namespace Sys2Proof.Machine

open Sys2Proof.Claims

/-! ### CONSTRUCT of the empty buffer -/

/-- R90's corner case `N = 0`: whatever range the caller asks for, it is empty and stands at 0. -/
theorem constructDecoder_nil (start stop : Option Nat) (s : State) :
    constructDecoder [] start stop s =
      { s with mem := [], rangeStart := 0, rangeEnd := 0, pc := 0, tDone := false, reply := .nothing } := by
  simp [constructDecoder, Memory.ofBytes, Memory.ofBytesFrom]

/-- Settles O9: the empty buffer's CONSTRUCT writes the values that reset has already. -/
theorem resetIsEmptyConstruct : Obligations.ResetIsEmptyConstruct :=
  ⟨(constructDecoder_nil none none State.reset).symm, rfl, rfl, rfl, rfl, rfl,
    (State.not_ready_iff State.reset).mpr (Nat.le_refl 0), rfl⟩

/-! ### Where a read is defined -/

/-- A read outside the range is the model's named fault (log 6). -/
theorem State.readByte_outside {s : State} {a : Nat} (h : ¬(s.rangeStart ≤ a ∧ a < s.rangeEnd)) :
    s.readByte a = .error (.memReadUndefined a) :=
  if_neg h

/-- Under the invariant the ByteStream has a byte at every address of the range, since `e <= N`. -/
theorem State.Inv.read_some {s : State} (h : s.Inv) {a : Nat} (ha : a < s.rangeEnd) :
    ∃ b, Memory.read s.mem a = some b := by
  obtain ⟨hwf, -, -, hsize⟩ := h
  exact Memory.read_some_of_lt hwf (Nat.lt_of_lt_of_le ha hsize)

/-- Settles O12: inside the range the invariant gives the byte, outside it the range check fails. -/
theorem readDefinedExactlyInRange : Obligations.ReadDefinedExactlyInRange := by
  intro s a hinv
  refine ⟨fun ⟨hlo, hhi⟩ => ?_, State.readByte_outside⟩
  obtain ⟨b, hb⟩ := hinv.read_some hhi
  exact ⟨b, State.readByte_ok hlo hhi hb, hb⟩

/-! ### The sentinel texts -/

/-- Two next states of DECODE_ONE whose cursors and reads are the same, and whose records differ at most in their text. -/
def SameStepButText (t t' : State) : Prop :=
  ∃ x y, t.reply = .record x ∧ t'.reply = .record y ∧ t'.pc = t.pc ∧ y.reads = x.reads ∧ SameButText x.record y.record

/-- States that emit the same reads and records alike but for the text, with the same new cursor, are alike. -/
theorem sameStepButText_emit {s s' : State} (pc' : Nat) (reads : List Nat) {r r' : Record} (h : SameButText r r') :
    SameStepButText (s.emit pc' ⟨r, reads⟩) (s'.emit pc' ⟨r', reads⟩) :=
  ⟨_, _, rfl, rfl, rfl, rfl, h⟩

section
variable (s : State) (p : Params)

/-- The terminal record has a sentinel in its text only (R93). -/
theorem terminalStep_setParams : SameStepButText s.terminalStep { s with params := p }.terminalStep :=
  sameStepButText_emit s.pc [] rfl

/-- The truncation clamp has a sentinel in its text only (R92, R194). -/
theorem truncateStep_setParams (op : Byte) (c : OpClass) :
    SameStepButText (s.truncateStep op c) ({ s with params := p }.truncateStep op c) :=
  sameStepButText_emit s.rangeEnd [s.pc] rfl

/-- The normal advance has a sentinel in its text only (R92, R80). -/
theorem advanceStep_setParams (op : Byte) (c : OpClass) (st : Status) (len : Nat) (f : Fetched) :
    SameStepButText (s.advanceStep op c st len f) ({ s with params := p }.advanceStep op c st len f) :=
  sameStepButText_emit (s.pc + len) (s.pc :: f.reads) rfl

/-- A read takes nothing from the parameters. -/
@[simp] theorem readByte_setParams (a : Nat) : { s with params := p }.readByte a = s.readByte a := rfl

/-- An operand fetch takes nothing from the parameters. -/
@[simp] theorem fetchOperand_setParams (m : Option Mode) : fetchOperand { s with params := p } m = fetchOperand s m := rfl

end

/-- For a fixed class the shared step takes its branch, its reads and its cursor from other fields than the parameters. -/
theorem decodeAs_setParams {s t : State} {op : Byte} {c : OpClass} (p : Params) (h : decodeAs op c s = .next t) :
    ∃ t', decodeAs op c { s with params := p } = .next t' ∧ SameStepButText t t' := by
  unfold decodeAs at h ⊢
  cases hst : pickStatus s.pc s.rangeEnd c (lengthRom op) <;> simp only [hst, fetchOperand_setParams] at h ⊢
  case terminal => cases h; exact ⟨_, rfl, terminalStep_setParams s p⟩
  case truncated => cases h; exact ⟨_, rfl, truncateStep_setParams s p op c⟩
  case unknownOpcode => cases h; exact ⟨_, rfl, advanceStep_setParams s p ..⟩
  case illegalMode => cases h; exact ⟨_, rfl, advanceStep_setParams s p ..⟩
  case ok =>
    cases hf : fetchOperand s c.mode <;> simp only [hf] at h ⊢
    case ok f => cases h; exact ⟨_, rfl, advanceStep_setParams s p ..⟩
    case error => cases h

/-- The class of a byte's instruction depends on `ZPY_SUBST` and on no other parameter (R62, R70). -/
theorem instrClass_decode_congr {p p' : Params} (h : p'.zpySubst = p.zpySubst) (op : Byte) :
    instrClass p' (decode op) = instrClass p (decode op) := by
  rw [instrClass_decode, instrClass_decode, h]

/-- The meaning of a byte's instruction under other sentinel texts. -/
theorem exec_decode_setParams {s t : State} {op : Byte} {p : Params} (hp : p.zpySubst = s.params.zpySubst)
    (h : exec (decode op) s = .next t) :
    ∃ t', exec (decode op) { s with params := p } = .next t' ∧ SameStepButText t t' := by
  rw [exec_eq_decodeAs] at h ⊢
  rw [instrClass_decode_congr hp]
  exact decodeAs_setParams p h

/-- DECODE_ONE under other sentinel texts. -/
theorem decodeOne_setParams {s t : State} {p : Params} (hp : p.zpySubst = s.params.zpySubst) (h : decodeOne s = .next t) :
    ∃ t', decodeOne { s with params := p } = .next t' ∧ SameStepButText t t' := by
  obtain ⟨hex, rfl⟩ | ⟨hready, op, hop, hexec⟩ := decodeOne_cases h
  · exact ⟨_, decodeOne_exhausted hex, terminalStep_setParams s p⟩
  · rw [decodeOne_ready (s := { s with params := p }) hready hop]
    exact exec_decode_setParams hp hexec

/-- Settles O30: under the same `ZPY_SUBST` the classes are the same, and a class's step uses the sentinels in its text only. -/
theorem sentinelsChangeTextsOnly : Obligations.SentinelsChangeTextsOnly := by
  intro s t x p h hx hp
  obtain ⟨t', h', x', y, hx', hy, hpc, hreads, htext⟩ := decodeOne_setParams hp h
  obtain rfl : x = x' := Reply.record.inj (hx.symm.trans hx')
  exact ⟨t', y, h', hy, hpc, hreads, htext⟩

end Sys2Proof.Machine
end

section
/-!
PROOFS of the statements on the state (spec 10_state.md): the ByteStream's canonical form (R20, R21), the cursor's bounds and the
steps that keep them (R22 to R24), the absorbing Exhausted (R25), and the advance of a DECODE_ONE (R28, R96).
-/

namespace Sys2Proof

/-- Where the classifier gives no mode (IllegalMode and Unknown), the length is 1 (R73). -/
theorem lengthRom_of_mode_none : ∀ (z : Bool) (op : Byte), (classify z op).mode = none → lengthRom op = 1 := by
  decide

/-- A byte's instruction has that byte for its encoding, so DECODE_ONE looks up the length of the byte it has read. -/
theorem encode_decode : ∀ op : Byte, encode (decode op) = op := by
  decide

end Sys2Proof

namespace Sys2Proof.Machine

open Sys2Proof.Claims

/-! ### The ByteStream -/

/-- Settles O11: each of the two makers of a ByteStream loads a buffer, and a load is canonical. -/
theorem memoryStaysCanonical : Obligations.MemoryStaysCanonical :=
  ⟨fun bytes => ⟨Memory.wf_ofBytes bytes, Memory.bytes_ofBytes bytes⟩,
    fun _ hwf => Memory.ofBytesFrom_bytes hwf,
    fun s nbits w => by rw [withFetchWord_mem]; exact Memory.wf_ofBytes _⟩

/-! ### The advance of one DECODE_ONE -/

/-- The shared step in Ready: the clamp's advance is what is left of the range, less than the length, and the normal advance is
the length, which fits. Where there is no mode nothing checks the length; there it is the opcode byte alone. -/
theorem decodeAs_advances {s t : State} {op : Byte} {c : OpClass} (hready : s.pc < s.rangeEnd)
    (hnone : c.mode = none → lengthRom op = 1) (h : decodeAs op c s = .next t) :
    ∃ x, t.reply = .record x ∧ x.record.index = s.pc ∧ t.pc = s.pc + x.record.advance ∧ 1 ≤ x.record.advance ∧
      x.record.advance ≤ 3 ∧ t.pc ≤ s.rangeEnd := by
  obtain ⟨hpos, hle⟩ := Laws.LengthBounds.lengthRom_bounds op
  obtain ⟨hex, -⟩ | ⟨-, hshort, -, rfl⟩ | ⟨-, st, f, -, rfl, hsome, -⟩ := decodeAs_cases h
  · exact absurd hready (Nat.not_lt.mpr hex)
  · have hadv : s.pc + (s.rangeEnd - s.pc) = s.rangeEnd := by omega
    exact ⟨_, rfl, rfl, hadv.symm, show 1 ≤ s.rangeEnd - s.pc by omega, show s.rangeEnd - s.pc ≤ 3 by omega,
      Nat.le_refl _⟩
  · have hfits : s.pc + lengthRom op ≤ s.rangeEnd := by
      cases hm : c.mode with
      | none => rw [hnone hm]; exact hready
      | some md => exact hsome (by rw [hm]; rfl)
    exact ⟨_, rfl, rfl, rfl, hpos, hle, hfits⟩

/-- Settles O27: DECODE_ONE in Ready is the shared step for the byte it reads, under that byte's class. -/
theorem readyStepAdvances : Obligations.ReadyStepAdvances := by
  intro s t hready h
  obtain ⟨hex, -⟩ | ⟨-, op, -, hexec⟩ := decodeOne_cases h
  · exact absurd hready (Nat.not_lt.mpr hex)
  · rw [exec_eq_decodeAs, encode_decode, instrClass_decode] at hexec
    exact decodeAs_advances hready (lengthRom_of_mode_none _ _) hexec

/-! ### What every command but CONSTRUCT keeps -/

/-- `t` is `s` with its cursor moved on, at most to the range's end; the adapter's bit, what was returned and the waiting
actions are left free. -/
structure State.AdvancesTo (s t : State) : Prop where
  params : t.params = s.params
  mem : t.mem = s.mem
  rangeStart : t.rangeStart = s.rangeStart
  rangeEnd : t.rangeEnd = s.rangeEnd
  pc_le : s.pc ≤ t.pc
  pc_le_end : s.pc ≤ s.rangeEnd → t.pc ≤ s.rangeEnd

theorem State.AdvancesTo.refl (s : State) : s.AdvancesTo s :=
  ⟨rfl, rfl, rfl, rfl, Nat.le_refl _, id⟩

theorem State.AdvancesTo.trans {s t u : State} (h₁ : s.AdvancesTo t) (h₂ : t.AdvancesTo u) : s.AdvancesTo u where
  params := h₂.params.trans h₁.params
  mem := h₂.mem.trans h₁.mem
  rangeStart := h₂.rangeStart.trans h₁.rangeStart
  rangeEnd := h₂.rangeEnd.trans h₁.rangeEnd
  pc_le := Nat.le_trans h₁.pc_le h₂.pc_le
  pc_le_end hle := by
    have hend := h₂.pc_le_end
    rw [h₁.rangeEnd] at hend
    exact hend (h₁.pc_le_end hle)

/-- The reply, the adapter's bit and the waiting actions may be set afterwards. -/
theorem State.AdvancesTo.update {s t : State} (h : s.AdvancesTo t) (r : Reply) (d : Bool) (l : List CallerAction) :
    s.AdvancesTo { t with reply := r, tDone := d, pending := l } :=
  ⟨h.params, h.mem, h.rangeStart, h.rangeEnd, h.pc_le, h.pc_le_end⟩

/-- The invariant speaks of no field that `AdvancesTo` leaves free. -/
theorem State.Inv.of_advancesTo {s t : State} (hinv : s.Inv) (h : s.AdvancesTo t) : t.Inv := by
  obtain ⟨hwf, hstart, hend, hsize⟩ := hinv
  unfold State.Inv
  rw [h.mem, h.rangeStart, h.rangeEnd]
  exact ⟨hwf, Nat.le_trans hstart h.pc_le, h.pc_le_end hend, hsize⟩

theorem decodeOne_advancesTo {s t : State} (h : decodeOne s = .next t) : s.AdvancesTo t := by
  obtain ⟨p, x, rfl, hle⟩ := decodeOne_emit h
  refine ⟨rfl, rfl, rfl, rfl, hle, fun hpc => ?_⟩
  obtain ⟨hex, heq⟩ | ⟨hready, -⟩ := decodeOne_cases h
  · rw [heq]; exact hpc
  · obtain ⟨-, -, -, -, -, -, hend⟩ := readyStepAdvances s _ hready h
    exact hend

theorem decodeAllFinish_advancesTo {acc : List Emission} {s t : State} (h : decodeAllFinish acc s = .next t) :
    s.AdvancesTo t := by
  obtain ⟨u, hone, hu⟩ := andThen_eq_next h
  cases hu
  exact (decodeOne_advancesTo hone).update _ _ _

/-- DECODE_ALL reaches the cursor only through DECODE_ONE (R20, R94): induction on its rounds. -/
theorem decodeAllLoop_advancesTo {k : Nat} {acc : List Emission} {s t : State} (h : decodeAllLoop k acc s = .next t) :
    s.AdvancesTo t := by
  induction k generalizing acc s with
  | zero => exact decodeAllFinish_advancesTo h
  | succ k ih =>
    rw [decodeAllLoop] at h
    split at h
    case isTrue =>
      obtain ⟨u, hone, hrest⟩ := andThen_eq_next h
      exact (decodeOne_advancesTo hone).trans (ih hrest)
    case isFalse => exact decodeAllFinish_advancesTo h

/-- PULL reaches the cursor only through DECODE_ONE (R20, R95). -/
theorem pull_advancesTo {s t : State} (h : pull s = .next t) : s.AdvancesTo t := by
  rw [pull] at h
  split at h
  case isTrue => cases h; exact (State.AdvancesTo.refl s).update _ _ _
  case isFalse =>
    obtain ⟨u, hone, hu⟩ := andThen_eq_next h
    cases hu
    exact (decodeOne_advancesTo hone).update _ _ _

/-- An action that goes on is CONSTRUCT or moves the cursor on within the range. -/
theorem perform_construct_or_advancesTo {c : CallerAction} {s t : State} (h : perform c s = .next t) :
    (∃ bytes start stop, c = .construct bytes start stop ∧ t = constructDecoder bytes start stop s) ∨ s.AdvancesTo t := by
  obtain hc | ⟨-, h⟩ | ⟨-, h⟩ | ⟨-, h⟩ | ⟨-, rfl⟩ | ⟨-, rfl⟩ := perform_cases h
  · exact .inl hc
  · exact .inr (decodeOne_advancesTo h)
  · exact .inr (decodeAllLoop_advancesTo h)
  · exact .inr (pull_advancesTo h)
  · exact .inr ((State.AdvancesTo.refl s).update _ _ _)
  · exact .inr (.refl _)

/-- A step that goes on takes a CONSTRUCT or moves the cursor on within the range. -/
theorem step_construct_or_advancesTo {s t : State} (h : step s = .next t) :
    (∃ bytes start stop, s.nextAction = .construct bytes start stop ∧ t = constructDecoder bytes start stop s.taken) ∨
      s.AdvancesTo t := by
  rw [step_eq_perform] at h
  exact (perform_construct_or_advancesTo h).imp_right ((State.AdvancesTo.refl s).update _ _ _).trans

/-! ### The invariant and Exhausted along the steps -/

/-- CONSTRUCT clamps whatever range the caller asks for (R90). -/
theorem constructDecoder_inv (bytes : List Byte) (start stop : Option Nat) (s : State) :
    (constructDecoder bytes start stop s).Inv := by
  refine ⟨Memory.wf_ofBytes bytes, Nat.le_refl _, Nat.le_max_left _ _, ?_⟩
  rw [constructDecoder_rangeEnd, constructDecoder_mem, Memory.size_ofBytes]
  exact Nat.max_le.mpr ⟨Nat.min_le_right _ _, Nat.min_le_right _ _⟩

/-- Settles O14: CONSTRUCT sets the invariant up, and every other action moves the cursor on within the range. -/
theorem stepKeepsInvariant : Obligations.StepKeepsInvariant := by
  intro s t hinv h
  obtain ⟨bytes, start, stop, -, rfl⟩ | hadv := step_construct_or_advancesTo h
  · exact constructDecoder_inv bytes start stop s.taken
  · exact hinv.of_advancesTo hadv

/-- Settles O25: without CONSTRUCT the range's end stays and the cursor is not lowered. -/
theorem exhaustedIsAbsorbing : Obligations.ExhaustedIsAbsorbing := by
  intro s t hex h hnot
  obtain ⟨bytes, start, stop, hc, -⟩ | hadv := step_construct_or_advancesTo h
  · exact absurd hc (hnot bytes start stop)
  · rw [hadv.rangeEnd]
    exact Nat.le_trans hex hadv.pc_le

/-- Settles O13: reset is a CONSTRUCT (O9), and it has returned nothing yet. -/
theorem resetMeetsInvariants : Obligations.ResetMeetsInvariants := by
  obtain ⟨hreset, -⟩ := resetIsEmptyConstruct
  refine ⟨?_, fun x hx => absurd hx List.not_mem_nil⟩
  rw [hreset]
  exact constructDecoder_inv [] none none State.reset

end Sys2Proof.Machine
end

section
/-!
PROOFS of the statements on memory (spec 20_memory.md): the order of the operand bytes (R44, R71), the read traces of a DECODE_ONE
and of a DECODE_ALL (R42, R45), what a step and an instruction leave unchanged (R41, R99), and which actions complete (R51, R54).
-/

namespace Sys2Proof.Machine

open Sys2Proof.Claims

/-! ### The read trace of one DECODE_ONE -/

/-- A byte's instruction passes its own check, so what holds of well-formed instructions holds of the one DECODE_ONE runs. -/
theorem decode_wellFormed : ∀ op : Byte, (decode op).wellFormed = true := by
  decide

/-- The operand bytes are read upwards from `pc+1`, as many as the mode is wide (R45, R71). -/
theorem fetchOperand_reads {s : State} {m : Option Mode} {f : Fetched} (h : fetchOperand s m = .ok f) :
    f.reads = List.range' (s.pc + 1) ((m.map Mode.width).getD 0) := by
  obtain ⟨-, hreads⟩ := fetchOperand_ok h
  rw [hreads]
  cases m with
  | none => rfl
  | some md =>
    rw [Option.map_some, Option.getD_some]
    obtain hw | hw | hw := Mode.width_cases md <;> rw [hw] <;> rfl

/-- An instruction in Ready reads its opcode byte and then upwards, not past the bytes its step covers (R45). -/
theorem exec_reads {i : Instr} {s t : State} (hi : i.wellFormed = true) (hready : s.pc < s.rangeEnd)
    (h : exec i s = .next t) :
    ∃ x n, t.reply = .record x ∧ x.reads = List.range' s.pc (n + 1) ∧ n + 1 ≤ x.record.advance := by
  rw [exec_eq_decodeAs] at h
  obtain ⟨hex, -⟩ | ⟨-, -, -, rfl⟩ | ⟨-, st, f, hf, rfl, -⟩ := decodeAs_cases h
  · exact absurd hready (Nat.not_lt.mpr hex)
  · exact ⟨_, 0, rfl, rfl, Nat.sub_pos_of_lt hready⟩
  · exact ⟨_, _, rfl, congrArg (s.pc :: ·) (fetchOperand_reads hf), width_lt_length hi s.params⟩

/-- An emission that one DECODE_ONE can make with its cursor at `pc` in a range that ends at `e`: it reads upwards from `pc`, and
it covers the bytes it reads and none outside the range. -/
structure Emission.StepAt (pc e : Nat) (x : Emission) : Prop where
  index : x.record.index = pc
  advance_le : x.record.advance ≤ 3
  fits : pc + x.record.advance ≤ e
  reads : ∃ n ≤ x.record.advance, x.reads = List.range' pc n

theorem Emission.StepAt.mem_reads {pc e : Nat} {x : Emission} (h : x.StepAt pc e) {a : Nat} (ha : a ∈ x.reads) :
    pc ≤ a ∧ a < pc + x.record.advance := by
  obtain ⟨n, hn, hreads⟩ := h.reads
  rw [hreads, List.mem_range'_1] at ha
  omega

theorem Emission.StepAt.reads_nodup {pc e : Nat} {x : Emission} (h : x.StepAt pc e) : x.reads.Nodup := by
  obtain ⟨n, -, hreads⟩ := h.reads
  rw [hreads]
  exact List.nodup_range'

/-- A step at the cursor stays in every range that the cursor has not left downwards. -/
theorem Emission.StepAt.within {lo pc e : Nat} {x : Emission} (h : x.StepAt pc e) (hlo : lo ≤ pc) : x.Within lo e := by
  have hfits := h.fits
  refine ⟨fun a ha => ?_, h.index.symm ▸ hlo, h.index.symm ▸ hfits, h.advance_le⟩
  have hmem := h.mem_reads ha
  omega

/-- DECODE_ONE's record is a step at the cursor, and the cursor moves on by the record's advance. -/
theorem decodeOne_stepAt {s t : State} (hpc : s.pc ≤ s.rangeEnd) (h : decodeOne s = .next t) :
    ∃ x, t.reply = .record x ∧ t.pc = s.pc + x.record.advance ∧ x.StepAt s.pc s.rangeEnd := by
  obtain ⟨-, rfl⟩ | ⟨hready, op, -, hexec⟩ := decodeOne_cases h
  · exact ⟨_, rfl, rfl, rfl, Nat.zero_le _, hpc, 0, Nat.le_refl _, rfl⟩
  · obtain ⟨x, hx, hindex, hmove, -, hthree, hend⟩ := readyStepAdvances s t hready h
    obtain ⟨y, n, hy, hreads, hn⟩ := exec_reads (decode_wellFormed op) hready hexec
    obtain rfl : x = y := Reply.record.inj (hx.symm.trans hy)
    exact ⟨x, hx, hmove, hindex, hthree, hmove ▸ hend, n + 1, hn, hreads⟩

/-- Settles O28: in Ready the trace is at least the opcode's address and at most three addresses upwards from it. -/
theorem readTraceInOrder : Obligations.ReadTraceInOrder := by
  intro s t h
  obtain ⟨hex, rfl⟩ | ⟨hready, op, -, hexec⟩ := decodeOne_cases h
  · exact ⟨_, rfl, fun _ => rfl, fun hready => absurd hready (Nat.not_lt.mpr hex)⟩
  · obtain ⟨x, n, hx, hreads, hn⟩ := exec_reads (decode_wellFormed op) hready hexec
    obtain ⟨y, hy, -, -, -, hthree, -⟩ := readyStepAdvances s t hready h
    obtain rfl : x = y := Reply.record.inj (hx.symm.trans hy)
    have hprefix : List.range' s.pc (n + 1) <+: List.range' s.pc 3 :=
      ⟨List.range' (s.pc + (n + 1)) (2 - n), by rw [List.range'_append_1]; congr 1; omega⟩
    refine ⟨x, hx, fun hex => absurd hready (Nat.not_lt.mpr hex), fun _ => ?_⟩
    rw [hreads]
    exact ⟨List.cons_ne_nil _ _, hprefix⟩

/-! ### The read traces of every command -/

/-- Emissions of DECODE_ONEs one after the other, the first with its cursor at the given address. -/
def StepsFrom (e : Nat) : Nat → List Emission → Prop
  | _, [] => True
  | pc, x :: xs => x.StepAt pc e ∧ StepsFrom e (pc + x.record.advance) xs

theorem StepsFrom.singleton {pc e : Nat} {x : Emission} (h : x.StepAt pc e) : StepsFrom e pc [x] :=
  ⟨h, trivial⟩

/-- Every later step has its cursor further up. -/
theorem StepsFrom.within {lo pc e : Nat} {xs : List Emission} (h : StepsFrom e pc xs) (hlo : lo ≤ pc) :
    ∀ x ∈ xs, x.Within lo e := by
  induction xs generalizing pc with
  | nil => exact fun x hx => absurd hx List.not_mem_nil
  | cons x xs ih =>
    obtain ⟨hx, hxs⟩ := h
    exact List.forall_mem_cons.mpr ⟨hx.within hlo, ih hxs (Nat.le_add_right_of_le hlo)⟩

/-- All addresses read lie from the first cursor up to the range's end. -/
theorem StepsFrom.mem_reads {pc e a : Nat} {xs : List Emission} (h : StepsFrom e pc xs)
    (ha : a ∈ xs.flatMap fun x => x.reads) : pc ≤ a ∧ a < e := by
  obtain ⟨x, hx, hax⟩ := List.mem_flatMap.mp ha
  obtain ⟨hreads, -⟩ := h.within (Nat.le_refl pc) x hx
  exact hreads a hax

/-- A step's reads lie below the next cursor, and all later reads do not. -/
theorem StepsFrom.reads_nodup {pc e : Nat} {xs : List Emission} (h : StepsFrom e pc xs) :
    (xs.flatMap fun x => x.reads).Nodup := by
  induction xs generalizing pc with
  | nil => exact List.nodup_nil
  | cons x xs ih =>
    obtain ⟨hx, hxs⟩ := h
    rw [List.flatMap_cons, List.nodup_append]
    refine ⟨hx.reads_nodup, ih hxs, fun a ha b hb => ?_⟩
    have hbelow := hx.mem_reads ha
    have habove := hxs.mem_reads hb
    omega

theorem decodeOne_stepsFrom {s t : State} (hpc : s.pc ≤ s.rangeEnd) (h : decodeOne s = .next t) :
    StepsFrom s.rangeEnd s.pc t.reply.emissions := by
  obtain ⟨x, hx, -, hstep⟩ := decodeOne_stepAt hpc h
  rw [hx]
  exact .singleton hstep

/-- DECODE_ALL's rounds are DECODE_ONEs one after the other (R94): induction on the rounds. -/
theorem decodeAllLoop_stepsFrom {k : Nat} {acc : List Emission} {s t : State} (hpc : s.pc ≤ s.rangeEnd)
    (h : decodeAllLoop k acc s = .next t) :
    ∃ xs, t.reply = .records (acc ++ xs) ∧ StepsFrom s.rangeEnd s.pc xs := by
  induction k generalizing acc s with
  | zero =>
    obtain ⟨u, hone, hu⟩ := andThen_eq_next h
    cases hu
    exact ⟨_, rfl, decodeOne_stepsFrom hpc hone⟩
  | succ k ih =>
    obtain hready | hex := Nat.lt_or_ge s.pc s.rangeEnd
    case inr =>
      rw [decodeAllLoop_exhausted _ _ hex] at h
      cases h
      exact ⟨_, rfl, decodeOne_stepsFrom hpc (decodeOne_exhausted hex)⟩
    case inl =>
      rw [decodeAllLoop, if_pos ((State.ready_iff s).mpr hready)] at h
      obtain ⟨u, hone, hrest⟩ := andThen_eq_next h
      have hadv := decodeOne_advancesTo hone
      obtain ⟨x, hx, hmove, hstep⟩ := decodeOne_stepAt hpc hone
      obtain ⟨xs, hxs, hsteps⟩ := ih (hadv.rangeEnd ▸ hadv.pc_le_end hpc) hrest
      rw [hadv.rangeEnd, hmove] at hsteps
      exact ⟨x :: xs, by rw [hxs, hx, Reply.emissions_record, List.append_assoc]; rfl, hstep, hsteps⟩

/-- Settles O34: the DECODE_ONEs of a DECODE_ALL read upwards, each from its own cursor on. -/
theorem decodeAllReadsOnce : Obligations.DecodeAllReadsOnce := by
  intro s t xs ⟨_, _, hpc, _⟩ h hxs
  obtain ⟨ys, hys, hsteps⟩ := decodeAllLoop_stepsFrom hpc h
  obtain rfl : xs = ys := Reply.records.inj (hxs.symm.trans hys)
  exact ⟨hsteps.reads_nodup, fun a ha => hsteps.mem_reads ha⟩

theorem decodeAll_stepsFrom {s t : State} (hpc : s.pc ≤ s.rangeEnd) (h : decodeAll s = .next t) :
    StepsFrom s.rangeEnd s.pc t.reply.emissions := by
  obtain ⟨xs, hxs, hsteps⟩ := decodeAllLoop_stepsFrom hpc h
  rw [hxs]
  exact hsteps

/-- PULL returns nothing or DECODE_ONE's record (R95). -/
theorem pull_stepsFrom {s t : State} (hpc : s.pc ≤ s.rangeEnd) (h : pull s = .next t) :
    StepsFrom s.rangeEnd s.pc t.reply.emissions := by
  rw [pull] at h
  split at h
  case isTrue => cases h; exact trivial
  case isFalse =>
    obtain ⟨u, hone, hu⟩ := andThen_eq_next h
    cases hu
    obtain ⟨x, hx, -, hstep⟩ := decodeOne_stepAt hpc hone
    rw [hx]
    exact .singleton hstep

/-- Under the invariant steps from the cursor on stay in the range, which no move of the cursor changes. -/
theorem State.Inv.replyWithin {s t : State} (hinv : s.Inv) (hadv : s.AdvancesTo t)
    (hsteps : StepsFrom s.rangeEnd s.pc t.reply.emissions) : t.ReplyWithin := by
  obtain ⟨-, hstart, -, -⟩ := hinv
  unfold State.ReplyWithin
  rw [hadv.rangeStart, hadv.rangeEnd]
  exact hsteps.within hstart

/-- What an action that goes on returns stays in the range: nothing after CONSTRUCT, the steps of the three commands, and what was
returned before where the action returns nothing new. -/
theorem perform_replyWithin {c : CallerAction} {s t : State} (hinv : s.Inv) (hreply : s.ReplyWithin)
    (h : perform c s = .next t) : t.ReplyWithin := by
  have ⟨_, _, hpc, _⟩ := hinv
  obtain ⟨_, _, _, -, rfl⟩ | ⟨-, h⟩ | ⟨-, h⟩ | ⟨-, h⟩ | ⟨-, rfl⟩ | ⟨-, rfl⟩ := perform_cases h
  · exact fun x hx => absurd hx List.not_mem_nil
  · exact hinv.replyWithin (decodeOne_advancesTo h) (decodeOne_stepsFrom hpc h)
  · exact hinv.replyWithin (decodeAllLoop_advancesTo h) (decodeAll_stepsFrom hpc h)
  · exact hinv.replyWithin (pull_advancesTo h) (pull_stepsFrom hpc h)
  · exact hreply
  · exact hreply

/-- Settles O15: the next action's reply stays in the range, and the invariant (O14) bounds the range by the buffer. -/
theorem stepKeepsReadsInRange : Obligations.StepKeepsReadsInRange := by
  intro s t hinv hreply h
  obtain ⟨-, -, -, hsize⟩ := stepKeepsInvariant s t hinv h
  rw [step_eq_perform] at h
  exact ⟨perform_replyWithin (s := s.taken) hinv hreply h, hsize⟩

/-! ### The operand's value -/

/-- The two bytes of a pair do not overlap, so their disjunction is their sum (R71). -/
theorem assembleHalf_toNat (b1 b2 : Byte) : (assembleHalf b1 b2).toNat = b1.toNat + 256 * b2.toNat := by
  rw [assembleHalf, BitVec.toNat_append, ← Nat.shiftLeft_add_eq_or_of_lt b1.isLt, Nat.shiftLeft_eq]
  omega

theorem assembleHalf_eq_or (b1 b2 : Byte) : assembleHalf b1 b2 = b1.setWidth 16 ||| (b2.setWidth 16 <<< 8) := by
  rw [assembleHalf, BitVec.append_def, BitVec.shiftLeftZeroExtend_eq, BitVec.setWidth'_eq, BitVec.or_comm]

/-- Settles O8: a mode is 0, 1 or 2 bytes wide, and the operand fetch goes by the width alone. -/
theorem operandIsLittleEndian : Obligations.OperandIsLittleEndian := by
  refine ⟨fun s md => ?_, fun b1 b2 => ⟨assembleHalf_eq_or b1 b2, assembleHalf_toNat b1 b2⟩⟩
  obtain hw | hw | hw := Mode.width_cases md
  · exact .inl ⟨hw, by simp only [fetchOperand, hw]⟩
  · exact .inr (.inl ⟨hw, fun b1 h1 => by simp only [fetchOperand, hw, h1]⟩)
  · exact .inr (.inr ⟨hw, fun b1 b2 h1 h2 => by simp only [fetchOperand, hw, h1, h2]⟩)

/-! ### What a step and an instruction leave unchanged -/

/-- Settles O17: a CONSTRUCT keeps the parameters, and every other action moves the cursor on. -/
theorem onlyConstructMovesBack : Obligations.OnlyConstructMovesBack := by
  intro s t h
  obtain ⟨bytes, start, stop, hc, rfl⟩ | hadv := step_construct_or_advancesTo h
  · exact ⟨rfl, fun hnot => absurd hc (hnot bytes start stop)⟩
  · exact ⟨hadv.params, fun _ => ⟨hadv.pc_le, hadv.rangeStart, hadv.rangeEnd, hadv.mem, fun a => by rw [hadv.mem]⟩⟩

/-- Settles O18: an instruction's next state is an emission, which writes the cursor and the reply. -/
theorem execFrame : Obligations.ExecFrame := by
  intro i s t h
  obtain ⟨p, x, rfl, -⟩ := exec_emit h
  exact ⟨rfl, rfl, rfl, rfl, rfl, rfl, fun _ => rfl⟩

/-! ### Which actions complete -/

/-- The opcode byte is readable in Ready, and every byte's instruction completes. -/
theorem State.Inv.decodeOne_completes {s : State} (hinv : s.Inv) : ∃ t, decodeOne s = .next t := by
  obtain hready | hex := Nat.lt_or_ge s.pc s.rangeEnd
  · obtain ⟨op, hop⟩ := hinv.readByte (Nat.le_refl s.pc) hready
    rw [decodeOne_ready hready hop]
    exact exec_completes hinv (decode_wellFormed op)
  · exact ⟨_, decodeOne_exhausted hex⟩

theorem State.Inv.decodeAllFinish_completes {s : State} (hinv : s.Inv) (acc : List Emission) :
    ∃ t, decodeAllFinish acc s = .next t := by
  obtain ⟨u, hone⟩ := hinv.decodeOne_completes
  rw [decodeAllFinish, hone]
  exact ⟨_, rfl⟩

/-- Each round of DECODE_ALL leaves a state that meets the invariant again. -/
theorem State.Inv.decodeAllLoop_completes {s : State} (hinv : s.Inv) (k : Nat) (acc : List Emission) :
    ∃ t, decodeAllLoop k acc s = .next t := by
  induction k generalizing acc s with
  | zero => exact hinv.decodeAllFinish_completes acc
  | succ k ih =>
    obtain hready | hex := Nat.lt_or_ge s.pc s.rangeEnd
    · obtain ⟨u, hone⟩ := hinv.decodeOne_completes
      rw [decodeAllLoop_ready k acc hready hone]
      exact ih (hinv.of_advancesTo (decodeOne_advancesTo hone)) _
    · exact ⟨_, decodeAllLoop_exhausted _ _ hex⟩

theorem State.Inv.pull_completes {s : State} (hinv : s.Inv) : ∃ t, pull s = .next t := by
  rw [pull]
  split
  case isTrue => exact ⟨_, rfl⟩
  case isFalse =>
    obtain ⟨u, hone⟩ := hinv.decodeOne_completes
    rw [hone]
    exact ⟨_, rfl⟩

theorem State.Inv.perform_completes {s : State} (hinv : s.Inv) {c : CallerAction} (hc : c.lawful = true) :
    ∃ t, perform c s = .next t := by
  cases c with
  | construct bytes start stop => exact ⟨_, rfl⟩
  | decodeOne => exact hinv.decodeOne_completes
  | decodeAll => exact hinv.decodeAllLoop_completes _ _
  | pull => exact hinv.pull_completes
  | newAdapter => exact ⟨_, rfl⟩
  | idle => exact ⟨_, rfl⟩
  | overlap => cases hc
  | changeByte a b => cases hc
  | beforeConstruct command => cases hc

/-- Settles O16: a step is the next action, on a state that differs in the waiting list only. -/
theorem lawfulActionCompletes : Obligations.LawfulActionCompletes := by
  intro s hinv hc
  rw [step_eq_perform]
  exact State.Inv.perform_completes (s := s.taken) hinv hc

/-- With an action waiting, a step is that action on the state it has left the waiting list of (log 3). -/
theorem step_of_pending {s : State} {c : CallerAction} {rest : List CallerAction} (h : s.pending = c :: rest) :
    step s = perform c { s with pending := rest } := by
  simp only [step, callerStep, h]

/-- Settles O37: each breach's action is refused by its own name, whatever the state is. -/
theorem unlawfulActionsRefused : Obligations.UnlawfulActionsRefused :=
  fun _ _ => ⟨step_of_pending, fun _ _ => step_of_pending, fun _ => step_of_pending⟩

end Sys2Proof.Machine
end

section
/-!
PROOFS of the statements on the encoding (spec 30_encoding.md): decoder and encoder as inverses (R61 to R70), the classifier against
the opcode map (R62, R77) and as the class every meaning runs under (R92), the length ROM (R73, R75) and the hexadecimal texts (R72).
-/

namespace Sys2Proof

/-! ### The fields of the byte `aaabbbcc` (R61) -/

section
variable (i m : BitVec 3) (f : BitVec 2)

@[simp] theorem opFamily_packOpcode : opFamily (packOpcode i m f) = f := by
  revert i m f; decide

@[simp] theorem opModeIndex_packOpcode : opModeIndex (packOpcode i m f) = m := by
  revert i m f; decide

@[simp] theorem opInstrIndex_packOpcode : opInstrIndex (packOpcode i m f) = i := by
  revert i m f; decide

end

@[simp] theorem column00_index (m : Mode00) : column00 m.index = some m := by cases m <;> rfl
@[simp] theorem column01_index (m : Mode01) : column01 m.index = m := by cases m <;> rfl
@[simp] theorem column10_index (m : Mode10) : column10 m.index = m := by cases m <;> rfl

/-! ### What the special table leaves to the families (R63) -/

/-- Of family 00 the special table takes the ILL columns (R68), and of column 0 the rows of BRK, JSR, RTI and RTS. -/
theorem specialRow?_family00 : ∀ i m : BitVec 3,
    specialRow? (packOpcode i m 0) = none ↔ m.toNat % 2 = 1 ∨ m = 0 ∧ 4 ≤ i := by
  decide

/-- Of family 01 the special table takes nothing. -/
theorem specialRow?_family01 : ∀ i m : BitVec 3, specialRow? (packOpcode i m 1) = none := by
  decide

/-- Of family 10 the special table takes column 2 (ACC) of the rows that do not shift, and column 6 of STX and LDX. -/
theorem specialRow?_family10 : ∀ i m : BitVec 3,
    specialRow? (packOpcode i m 2) = none ↔ ¬(m = 2 ∧ 4 ≤ i) ∧ ¬(m = 6 ∧ (i = 4 ∨ i = 5)) := by
  decide

/-! ### The decoder past the special table (R62) -/

section
variable {op : Byte} (hs : specialRow? op = none)
include hs

theorem decode_eq_decode00 (hf : opFamily op = 0) : decode op = decode00 op := by
  simp [decode, hs, hf]

theorem decode_eq_decode01 (hf : opFamily op = 1) : decode op = decode01 op := by
  simp [decode, hs, hf]

theorem decode_eq_decode10 (hf : opFamily op = 2) : decode op = decode10 op := by
  simp [decode, hs, hf]

end

/-- A family 00 byte outside the special table's column 0. -/
theorem decode_packOpcode_family00 {i : BitVec 3} {m : Mode00} (himm : m = .imm → 4 ≤ i) :
    decode (packOpcode i m.index 0) = decode00 (packOpcode i m.index 0) := by
  refine decode_eq_decode00 ((specialRow?_family00 i m.index).mpr ?_) (opFamily_packOpcode ..)
  cases m
  case imm => exact .inr ⟨rfl, himm rfl⟩
  all_goals exact .inl rfl

theorem decode_packOpcode_family01 (i : BitVec 3) (m : Mode01) :
    decode (packOpcode i m.index 1) = decode01 (packOpcode i m.index 1) :=
  decode_eq_decode01 (specialRow?_family01 i m.index) (opFamily_packOpcode ..)

/-- A family 10 byte outside the columns the special table takes. -/
theorem decode_packOpcode_family10 {i : BitVec 3} {m : Mode10} (hacc : m = .acc → i < 4)
    (hill : m = .ill6 → i ≠ 4 ∧ i ≠ 5) :
    decode (packOpcode i m.index 2) = decode10 (packOpcode i m.index 2) := by
  refine decode_eq_decode10 ((specialRow?_family10 i m.index).mpr ?_) (opFamily_packOpcode ..)
  cases m
  case acc => exact ⟨fun h => BitVec.not_le.mpr (hacc rfl) h.2, fun h => absurd h.1 (by decide)⟩
  case ill6 => exact ⟨fun h => absurd h.1 (by decide), fun h => h.2.elim (hill rfl).1 (hill rfl).2⟩
  all_goals exact ⟨fun h => absurd h.1 (by decide), fun h => absurd h.1 (by decide)⟩

/-- The 68 bytes of R181 are left by the special table and by the family tables. -/
theorem decode_of_isUnknownByte : ∀ op : Byte, isUnknownByte op = true → decode op = .unknown op := by
  decide

/-! ### Decoder and encoder -/

/-- Settles O3: well-formedness keeps a family's instruction off the special table's bytes, so its family's decoder reads the row
and the column back from the fields of `aaabbbcc`. -/
theorem decodeOfEncode : Obligations.DecodeOfEncode := by
  intro i h
  cases i
  case unknown op => exact decode_of_isUnknownByte op h
  case ora m | and m | eor m | adc m | sta m | lda m | cmp m | sbc m =>
    rw [encode, decode_packOpcode_family01]
    simp [decode01]
  case bit m | sty m | ldy m | cpy m | cpx m =>
    rw [encode, decode_packOpcode_family00 (by simp_all [Instr.wellFormed])]
    simp [decode00]
  case jmp k m =>
    rw [encode, decode_packOpcode_family00 (by simp_all [Instr.wellFormed])]
    cases k <;> simp [decode00, JmpIndex.index]
  case asl m | rol m | lsr m | ror m | stx m | ldx m | dec m | inc m =>
    rw [encode, decode_packOpcode_family10 (by simp_all [Instr.wellFormed]) (by simp_all [Instr.wellFormed])]
    simp [decode10]
  all_goals rfl

/-- Settles O4: the two checks of a byte's instruction, that it is well-formed and that its byte is this one. -/
theorem encodeOfDecode : Obligations.EncodeOfDecode :=
  fun op => ⟨Machine.decode_wellFormed op, encode_decode op⟩

end Sys2Proof

namespace Sys2Proof.Machine

open Sys2Proof.Claims

/-! ### The class of every byte -/

/-- Settles O6: every meaning is the shared step for its own byte and class, and for a byte's instruction these are the byte and
the classifier's class. -/
theorem execFollowsClassifier : Obligations.ExecFollowsClassifier := by
  intro op s
  rw [exec_eq_decodeAs, encode_decode, instrClass_decode]

/-- R77's cells, those that `ZPY_SUBST` changes among them. -/
theorem cellOfClass_classify : ∀ (z : Bool) (op : Byte), cellOfClass (classify z op) = mapCellWith z op := by
  decide

/-- `ZPY_SUBST` puts a mode in the place of a mode (R70): the verdict ILL does not depend on it. -/
theorem resolve_isSome : ∀ (z : Bool) (f : BitVec 2) (i m : BitVec 3),
    (resolve z f i m).isSome = (resolve false f i m).isSome := by
  decide

/-- The kind of a family's class: the mnemonic tables and the verdict ILL give it, the mode itself does not. -/
theorem kindOf_familyClass (z : Bool) (op : Byte) : kindOf (familyClass z op) = kindOf (familyClass false op) := by
  have hres := resolve_isSome z (opFamily op) (opInstrIndex op) (opModeIndex op)
  unfold familyClass
  cases familyMnemonic op with
  | none => rfl
  | some mn =>
    generalize resolve z (opFamily op) (opInstrIndex op) (opModeIndex op) = r at hres ⊢
    generalize resolve false (opFamily op) (opInstrIndex op) (opModeIndex op) = r' at hres ⊢
    match r, r', hres with
    | none, none, _ => rfl
    | some _, some _, _ => rfl

/-- `ZPY_SUBST` changes no byte's kind. -/
theorem kindOf_classify (z : Bool) (op : Byte) : kindOf (classify z op) = kindOf (classify false op) := by
  unfold classify
  cases specialRow? op with
  | none => exact kindOf_familyClass z op
  | some r => rfl

/-- The numbers below `16 * n`, as `n` rows of 16. -/
theorem range_eq_rows (n : Nat) :
    List.range (16 * n) = (List.range n).flatMap fun hi => (List.range 16).map (16 * hi + ·) := by
  induction n with
  | zero => rfl
  | succ n ih =>
    rw [Nat.mul_succ, List.range_add, ih, List.range_succ (n := n), List.flatMap_append, List.flatMap_singleton]

/-- The bytes counted as R75 and R77 print them: a row for each high nibble, a column for each low nibble. -/
theorem countBytes_eq_sum_rows (p : Byte → Bool) : countBytes p =
    ((List.range 16).map fun hi => (List.range 16).countP fun lo => p (BitVec.ofNat 8 (16 * hi + lo))).sum := by
  rw [countBytes, allBytes, range_eq_rows 16]
  simp only [List.countP_map, List.countP_flatMap, Function.comp_def]

/-- Settles O1: the map is compared cell by cell; the kinds are counted row by row, once for both values of `ZPY_SUBST`. -/
theorem classifierMatchesOpcodeMap : Obligations.ClassifierMatchesOpcodeMap := by
  refine ⟨cellOfClass_classify, fun z => ?_⟩
  simp only [kindOf_classify z, countBytes_eq_sum_rows]
  decide

/-! ### The length ROM -/

/-- Where the classifier gives a mode, the length is the opcode byte and the mode's operand bytes, except for BRK (R73, R74). -/
theorem lengthRom_of_mode : ∀ (z : Bool) (op : Byte), op ≠ 0x00 →
    ∀ md ∈ (classify z op).mode, lengthRom op = 1 + md.width := by
  decide

/-- Settles O2: a class with a mode has the mode's width, one without has no operand; the totals are counted row by row. -/
theorem lengthRomFollowsClass : Obligations.LengthRomFollowsClass := by
  refine ⟨fun z op => ⟨?_, ?_⟩, ?_⟩
  · obtain ⟨hpos, hle⟩ := Laws.LengthBounds.lengthRom_bounds op
    omega
  · by_cases hop : op = 0x00
    · rw [if_pos hop, hop]
      rfl
    · rw [if_neg hop]
      have hmode := lengthRom_of_mode z op hop
      have hnone := lengthRom_of_mode_none z op
      cases hc : classify z op <;> rw [hc] at hmode hnone
      case special mn md | generic mn md => exact hmode md rfl
      case illegalMode mn => exact hnone rfl
      case unknown => exact hnone rfl
  · simp only [countBytes_eq_sum_rows]
    decide

/-! ### Hexadecimal texts (R72) -/

/-- A digit is a decimal digit or a letter A to F, and stands for its own value. -/
theorem hexDigit_cases : ∀ d : BitVec 4,
    ('0' ≤ hexDigit d.toNat ∧ hexDigit d.toNat ≤ '9') ∧ (hexDigit d.toNat).toNat - '0'.toNat = d.toNat ∨
    ¬('0' ≤ hexDigit d.toNat ∧ hexDigit d.toNat ≤ '9') ∧ ('A' ≤ hexDigit d.toNat ∧ hexDigit d.toNat ≤ 'F') ∧
      (hexDigit d.toNat).toNat - 'A'.toNat + 10 = d.toNat := by
  decide

/-- One more digit: the value so far moves one place up. -/
theorem hexValue_append_hexDigit (l : List Char) (d : BitVec 4) :
    hexValue (String.ofList (l ++ [hexDigit d.toNat])) = (hexValue (String.ofList l)).map (16 * · + d.toNat) := by
  simp only [hexValue, String.toList_ofList, List.foldl_append, List.foldl_cons, List.foldl_nil]
  generalize List.foldl _ _ l = acc
  cases acc with
  | none => rfl
  | some n =>
    obtain ⟨hdec, hval⟩ | ⟨hdec, hlet, hval⟩ := hexDigit_cases d
    · simp only [if_pos hdec, hval, Option.map_some]
    · simp only [if_neg hdec, if_pos hlet, hval, Option.map_some]

/-- Digits after a text: the text's value, moved up and filled with the digits. -/
theorem hexValue_append_hexDigits (l : List Char) (ds : List (BitVec 4)) :
    hexValue (String.ofList (l ++ ds.map fun d => hexDigit d.toNat)) =
      (hexValue (String.ofList l)).map (ds.foldl fun n d => 16 * n + d.toNat) := by
  induction ds generalizing l with
  | nil =>
    rw [List.map_nil, List.append_nil]
    cases hexValue (String.ofList l) <;> rfl
  | cons d ds ih =>
    rw [List.map_cons, List.append_cons, ih, hexValue_append_hexDigit]
    cases hexValue (String.ofList l) <;> rfl

/-- A text of digits is their base-16 number. -/
theorem hexValue_hexDigits (ds : List (BitVec 4)) :
    hexValue (String.ofList (ds.map fun d => hexDigit d.toNat)) = some (ds.foldl (fun n d => 16 * n + d.toNat) 0) :=
  hexValue_append_hexDigits [] ds

/-- Settles O7: the digits are the value's nibbles, highest first, and these make up the value. -/
theorem hexTextsAreExact : Obligations.HexTextsAreExact := by
  refine ⟨fun v => ⟨String.length_ofList .., ?_⟩, fun v => ⟨String.length_ofList .., ?_⟩⟩
  · refine (hexValue_hexDigits [v.extractLsb' 4 4, v.extractLsb' 0 4]).trans (congrArg some ?_)
    simp only [List.foldl_cons, List.foldl_nil, BitVec.extractLsb'_toNat, Nat.shiftRight_eq_div_pow]
    omega
  · refine (hexValue_hexDigits
      [v.extractLsb' 12 4, v.extractLsb' 8 4, v.extractLsb' 4 4, v.extractLsb' 0 4]).trans (congrArg some ?_)
    simp only [List.foldl_cons, List.foldl_nil, BitVec.extractLsb'_toNat, Nat.shiftRight_eq_div_pow]
    omega

end Sys2Proof.Machine
end

section
/-!
PROOFS of the statements on the commands (spec 40_decoder_ops.md): CONSTRUCT (R90), DECODE_ONE (R91 to R93, R98, R100), DECODE_ALL
(R94, R96, R97), PULL (R95), and the step that runs the caller's next one.
-/

namespace Sys2Proof.Machine

open Sys2Proof.Claims

/-! ### CONSTRUCT -/

/-- Settles O10: the new decoder's fields are R90's, and a loaded buffer reads as the buffer. -/
theorem constructSetsRange : Obligations.ConstructSetsRange :=
  fun bytes start stop s => ⟨constructDecoder bytes start stop s, rfl, rfl, rfl, rfl, rfl, Memory.size_ofBytes bytes,
    Memory.read_ofBytes bytes, rfl, rfl, rfl⟩

/-! ### The step that runs the next command -/

/-- With no action waiting, a step is a DECODE_ONE (log 3). -/
theorem step_of_no_pending {s : State} (h : s.pending = []) : step s = decodeOne s := by
  simp only [step, callerStep, h]

/-- Settles O19: a step is its command, and in Ready a DECODE_ONE is the instruction of the byte it reads. -/
theorem stepRunsDecodedInstruction : Obligations.StepRunsDecodedInstruction := by
  refine ⟨fun s op hready hop => ⟨fun h => ?_, fun rest h => ?_⟩, fun s => step_of_no_pending,
    fun s rest => ⟨step_of_pending, step_of_pending, step_of_pending, fun _ _ _ => step_of_pending⟩⟩
  · rw [step_of_no_pending h, decodeOne_ready hready hop]
  · rw [step_of_pending h]
    exact decodeOne_ready (s := { s with pending := rest }) hready hop

/-- A table word's instruction is that of its first byte; the bytes after it play no part (R79). -/
theorem decodeTableWord_eq_some {nbits w : Nat} {i : Instr} (h : decodeTableWord nbits w = some i) :
    decode (BitVec.ofNat 8 (w % 2 ^ nbits)) = i := by
  rw [decodeTableWord] at h
  split at h
  case isTrue => cases h
  case isFalse => exact Option.some.inj h

/-- A placed table word lies inside the range. -/
theorem withFetchWord_ready (s : State) (nbits w : Nat) : s.pc < (s.withFetchWord nbits w).rangeEnd :=
  Nat.lt_of_lt_of_le (Nat.lt_add_of_pos_right (Nat.succ_pos 2)) (Nat.le_max_right _ _)

/-- A placed table word has its first byte at the cursor. -/
theorem withFetchWord_readByte (s : State) (nbits w : Nat) :
    (s.withFetchWord nbits w).readByte s.pc = .ok (BitVec.ofNat 8 (w % 2 ^ nbits)) := by
  refine State.readByte_ok (Nat.min_le_right _ _) (withFetchWord_ready s nbits w) ?_
  rw [withFetchWord_mem, Memory.read_ofBytes]
  exact overwriteBytes_get (Memory.bytes s.mem) (tableBytes nbits w) s.pc 0 (Nat.succ_pos 2)

/-- Settles O20: no action waits before the placed word, whose first byte is the one DECODE_ONE reads. -/
theorem fetchWordRunsNext : Obligations.FetchWordRunsNext := by
  intro s nbits w i hi
  rw [step_of_no_pending (withFetchWord_pending s nbits w),
    decodeOne_ready (withFetchWord_ready s nbits w) (withFetchWord_readByte s nbits w), decodeTableWord_eq_some hi]

/-! ### DECODE_ONE -/

/-- Settles O21: the terminal record is made from the cursor and the sentinel, which it leaves as they are. -/
theorem exhaustedReturnsTerminal : Obligations.ExhaustedReturnsTerminal :=
  fun s hex => ⟨decodeOne_exhausted hex,
    decodeOne_exhausted (s := { s with reply := .record (terminalEmission s) }) hex⟩

/-- Settles O31: a length that fits leaves the shared step neither the terminal record, as it is not 0, nor the clamp. -/
theorem cursorAdvancesLinearly : Obligations.CursorAdvancesLinearly := by
  intro i s t _ hfits h
  rw [exec_eq_decodeAs] at h
  obtain ⟨hpos, -⟩ := Laws.LengthBounds.lengthRom_bounds (encode i)
  obtain ⟨hex, -⟩ | ⟨-, hshort, -⟩ | ⟨-, st, f, -, rfl, -⟩ := decodeAs_cases h
  · omega
  · omega
  · rfl

/-! ### What DECODE_ONE depends on (R98) -/

section
variable {s s' : State} (hparams : s'.params = s.params) (hpc : s'.pc = s.pc)
include hparams hpc

theorem terminalStep_congr : s'.terminalStep = s'.emit s.pc ⟨terminalRecord s, []⟩ := by
  simp only [State.terminalStep, terminalRecord, hparams, hpc]

theorem advanceStep_congr (op : Byte) (c : OpClass) (st : Status) (len : Nat) (f : Fetched) :
    s'.advanceStep op c st len f = s'.emit (s.pc + len) ⟨fittingRecord op c st len f.value s, s.pc :: f.reads⟩ := by
  simp only [State.advanceStep, fittingRecord, hparams, hpc]

variable (hend : s'.rangeEnd = s.rangeEnd)
include hend

theorem truncateStep_congr (op : Byte) (c : OpClass) :
    s'.truncateStep op c = s'.emit s.rangeEnd ⟨truncatedRecord op c s, [s.pc]⟩ := by
  simp only [State.truncateStep, truncatedRecord, hparams, hpc, hend]

/-- The shared step takes its branch from the cursor and the range's end, and its operand from the bytes it reads. -/
theorem decodeAs_congr {t : State} {op : Byte} {c : OpClass} {x : Emission} (h : decodeAs op c s = .next t)
    (hx : t.reply = .record x) (hreads : ∀ a ∈ x.reads, s'.readByte a = s.readByte a) :
    decodeAs op c s' = .next (s'.emit t.pc x) := by
  unfold decodeAs at h ⊢
  rw [hpc, hend]
  cases hst : pickStatus s.pc s.rangeEnd c (lengthRom op) <;> simp only [hst] at h ⊢
  case terminal => cases h; cases hx; exact congrArg _ (terminalStep_congr hparams hpc)
  case truncated => cases h; cases hx; exact congrArg _ (truncateStep_congr hparams hpc hend op c)
  case unknownOpcode => cases h; cases hx; exact congrArg _ (advanceStep_congr hparams hpc ..)
  case illegalMode => cases h; cases hx; exact congrArg _ (advanceStep_congr hparams hpc ..)
  case ok =>
    cases hf : fetchOperand s c.mode <;> simp only [hf] at h
    case error => cases h
    case ok f =>
      cases h; cases hx
      rw [fetchOperand_congr hf hpc fun a ha => hreads a (List.mem_cons_of_mem _ ha)]
      exact congrArg _ (advanceStep_congr hparams hpc ..)

/-- DECODE_ONE's record and new cursor come from the parameters, the range's end, the cursor and the bytes it reads. -/
theorem decodeOne_congr {t : State} {x : Emission} (h : decodeOne s = .next t) (hx : t.reply = .record x)
    (hreads : ∀ a ∈ x.reads, s'.readByte a = s.readByte a) : decodeOne s' = .next (s'.emit t.pc x) := by
  obtain ⟨hex, rfl⟩ | ⟨hready, op, hop, hexec⟩ := decodeOne_cases h
  · cases hx
    have hex' : s'.rangeEnd ≤ s'.pc := by rwa [hend, hpc]
    rw [decodeOne_exhausted hex', terminalStep_congr hparams hpc]
    rfl
  · obtain ⟨y, n, hy, htrace, -⟩ := exec_reads (decode_wellFormed op) hready hexec
    obtain rfl : x = y := Reply.record.inj (hx.symm.trans hy)
    have hpcread : s.pc ∈ x.reads := by rw [htrace]; exact List.mem_cons_self
    have hready' : s'.pc < s'.rangeEnd := by rwa [hpc, hend]
    have hop' : s'.readByte s'.pc = .ok op := by rw [hpc, hreads _ hpcread, hop]
    rw [decodeOne_ready hready' hop', exec_eq_decodeAs, hparams]
    rw [exec_eq_decodeAs] at hexec
    exact decodeAs_congr hparams hpc hend hexec hx hreads

end

/-- Settles O29: the range's start plays a part in the reads only. -/
theorem decodeOneDependsOnReadBytes : Obligations.DecodeOneDependsOnReadBytes :=
  fun _ _ _ _ h hx hparams _ hend hpc hreads => ⟨_, decodeOne_congr hparams hpc hend h hx hreads, rfl, rfl⟩

/-! ### A decode from the cursor to the range's end -/

/-- A step in Ready does not return the terminal record. -/
theorem decodeAs_status_ne_terminal {s t : State} {op : Byte} {c : OpClass} (hready : s.pc < s.rangeEnd)
    (h : decodeAs op c s = .next t) : ∃ x, t.reply = .record x ∧ x.record.status ≠ .terminal := by
  obtain ⟨hex, -⟩ | ⟨-, -, -, rfl⟩ | ⟨-, st, f, -, rfl, -, hst⟩ := decodeAs_cases h
  · exact absurd hready (Nat.not_lt.mpr hex)
  · exact ⟨_, rfl, Status.noConfusion⟩
  · exact ⟨_, rfl, hst⟩

/-- An emission that one DECODE_ONE can make in Ready: it covers at least one byte and is not the terminal record (R96). -/
structure Emission.ReadyStepAt (pc e : Nat) (x : Emission) : Prop extends x.StepAt pc e where
  ready : pc < e
  advances : 1 ≤ x.record.advance
  status : x.record.status ≠ .terminal

/-- Fewer bytes are left in the range. -/
theorem Emission.ReadyStepAt.bytesLeft_lt {pc e : Nat} {x : Emission} (h : x.ReadyStepAt pc e) :
    e - (pc + x.record.advance) < e - pc := by
  have hready := h.ready
  have hadv := h.advances
  omega

/-- The whole next state of DECODE_ONE in Ready. -/
theorem decodeOne_readyStepAt {s t : State} (hready : s.pc < s.rangeEnd) (h : decodeOne s = .next t) :
    ∃ x, t = s.emit (s.pc + x.record.advance) x ∧ x.ReadyStepAt s.pc s.rangeEnd := by
  obtain ⟨p, x, rfl, -⟩ := decodeOne_emit h
  obtain ⟨_, ⟨⟩, hmove, hstep⟩ := decodeOne_stepAt (Nat.le_of_lt hready) h
  obtain ⟨_, ⟨⟩, -, -, hadv, -, -⟩ := readyStepAdvances s _ hready h
  obtain ⟨hex, -⟩ | ⟨-, op, -, hexec⟩ := decodeOne_cases h
  · exact absurd hready (Nat.not_lt.mpr hex)
  · rw [exec_eq_decodeAs] at hexec
    obtain ⟨_, ⟨⟩, hstatus⟩ := decodeAs_status_ne_terminal hready hexec
    exact ⟨x, congrArg (s.emit · x) hmove, hstep, hready, hadv, hstatus⟩

/-- Under the invariant a property of the Exhausted decoders, which DECODE_ONE in Ready hands back from the state it leaves to
the one it starts in, is a property of every decoder: each such DECODE_ONE leaves fewer bytes in the range (R96). -/
theorem State.Inv.decode_induction {P : (s : State) → s.Inv → Prop}
    (exhausted : ∀ (s : State) (hinv : s.Inv), s.pc = s.rangeEnd → P s hinv)
    (ready : ∀ (s : State) (hinv : s.Inv) (x : Emission), x.ReadyStepAt s.pc s.rangeEnd →
      decodeOne s = .next (s.emit (s.pc + x.record.advance) x) →
      ∀ hinv' : (s.emit (s.pc + x.record.advance) x).Inv, P _ hinv' → P s hinv)
    (s : State) (hinv : s.Inv) : P s hinv := by
  induction hn : s.rangeEnd - s.pc using Nat.strongRecOn generalizing s with
  | ind n ih =>
    have ⟨_, _, hpc, _⟩ := hinv
    obtain heq | hready := Nat.eq_or_lt_of_le hpc
    · exact exhausted s hinv heq
    · obtain ⟨t, hone⟩ := hinv.decodeOne_completes
      obtain ⟨x, rfl, hx⟩ := decodeOne_readyStepAt hready hone
      have hinv' := hinv.of_advancesTo (decodeOne_advancesTo hone)
      exact ready s hinv x hx hone hinv' (ih _ (hn ▸ hx.bytesLeft_lt) _ hinv' rfl)

/-! ### DECODE_ALL -/

/-- DECODE_ALL in Exhausted: the one terminal record (R94). -/
theorem decodeAll_exhausted {s : State} (hex : s.rangeEnd ≤ s.pc) :
    decodeAll s = .next { s with reply := .records [terminalEmission s] } :=
  decodeAllLoop_exhausted _ [] hex

/-- The loop's number of rounds is a bound only: each round leaves fewer bytes in the range (R96). -/
theorem decodeAllLoop_rounds_irrel {k k' : Nat} {s : State} (acc : List Emission) (hk : s.rangeEnd - s.pc ≤ k)
    (hk' : s.rangeEnd - s.pc ≤ k') : decodeAllLoop k acc s = decodeAllLoop k' acc s := by
  induction k generalizing k' acc s with
  | zero =>
    have hex : s.rangeEnd ≤ s.pc := Nat.sub_eq_zero_iff_le.mp (Nat.le_zero.mp hk)
    rw [decodeAllLoop_exhausted 0 acc hex, decodeAllLoop_exhausted k' acc hex]
  | succ k ih =>
    obtain hready | hex := Nat.lt_or_ge s.pc s.rangeEnd
    case inr => rw [decodeAllLoop_exhausted (k + 1) acc hex, decodeAllLoop_exhausted k' acc hex]
    case inl =>
      obtain ⟨k', rfl⟩ := Nat.exists_eq_add_one_of_ne_zero (n := k') (by omega)
      simp only [decodeAllLoop, (State.ready_iff s).mpr hready, if_true]
      cases hone : decodeOne s with
      | fault r => rfl
      | refused r => rfl
      | next t =>
        obtain ⟨x, rfl, hx⟩ := decodeOne_readyStepAt hready hone
        exact ih _ (Nat.le_of_lt_succ (Nat.lt_of_lt_of_le hx.bytesLeft_lt hk))
          (Nat.le_of_lt_succ (Nat.lt_of_lt_of_le hx.bytesLeft_lt hk'))

/-- DECODE_ALL in Ready: the record of one DECODE_ONE, then the records of a DECODE_ALL from the state that one leaves. -/
theorem decodeAll_ready {s t u : State} {x : Emission} {ys : List Emission} (hready : s.pc < s.rangeEnd)
    (hone : decodeOne s = .next t) (hx : t.reply = .record x) (hall : decodeAll t = .next u)
    (hys : u.reply = .records ys) : decodeAll s = .next { u with reply := .records (x :: ys) } := by
  obtain ⟨zs, hzs, hacc⟩ := decodeAllLoop_acc hall
  obtain rfl : ys = zs := Reply.records.inj (hys.symm.trans hzs)
  obtain ⟨y, rfl, hstep⟩ := decodeOne_readyStepAt hready hone
  obtain rfl : y = x := Reply.record.inj hx
  obtain ⟨k, hk⟩ := Nat.exists_eq_add_one_of_ne_zero (Nat.sub_ne_zero_of_lt hready)
  have hfewer : s.rangeEnd - (s.pc + y.record.advance) ≤ k := Nat.le_of_lt_succ (Nat.lt_of_lt_of_eq hstep.bytesLeft_lt hk)
  rw [decodeAll, hk, decodeAllLoop_ready k [] hready hone]
  exact (decodeAllLoop_rounds_irrel _ hfewer (Nat.le_refl _)).trans (hacc [y])

/-- Settles O33: the loop runs no round in Exhausted, and in Ready its first round is a DECODE_ONE. -/
theorem decodeAllIteratesDecodeOne : Obligations.DecodeAllIteratesDecodeOne :=
  ⟨fun _ => decodeAll_exhausted, fun _ _ _ _ _ _ => decodeAll_ready⟩

/-- The records of a DECODE_ALL but the last: one after the other from the cursor to `e`, none of them the terminal one, and
at most one per byte (R96, R97). -/
structure DecodesRange (e pc : Nat) (xs : List Emission) : Prop where
  covers : Covers e pc xs
  status : ∀ x ∈ xs, x.record.status ≠ .terminal
  length_le : xs.length ≤ e - pc

theorem DecodesRange.nil (e : Nat) : DecodesRange e e [] :=
  ⟨rfl, fun _ hx => absurd hx List.not_mem_nil, Nat.zero_le _⟩

theorem DecodesRange.cons {e pc : Nat} {x : Emission} {xs : List Emission} (hx : x.ReadyStepAt pc e)
    (h : DecodesRange e (pc + x.record.advance) xs) : DecodesRange e pc (x :: xs) where
  covers := ⟨hx.index, hx.ready, hx.advances, h.covers⟩
  status := List.forall_mem_cons.mpr ⟨hx.status, h.status⟩
  length_le := by
    have hadv := hx.advances
    have hfits := hx.fits
    have hlen := h.length_le
    rw [List.length_cons]
    omega

/-- DECODE_ALL leaves the cursor at the range's end and returns the records up to there and the terminal one. -/
theorem State.Inv.decodeAll_eq {s : State} (hinv : s.Inv) :
    ∃ xs, decodeAll s =
        .next { s with pc := s.rangeEnd, reply := .records (xs ++ [terminalEmission { s with pc := s.rangeEnd }]) } ∧
      DecodesRange s.rangeEnd s.pc xs := by
  induction s, hinv using State.Inv.decode_induction with
  | exhausted s hinv heq =>
    refine ⟨[], ?_, heq ▸ DecodesRange.nil s.pc⟩
    rw [decodeAll_exhausted (Nat.le_of_eq heq.symm), ← heq]
    rfl
  | ready s hinv x hx hone _ ih =>
    obtain ⟨xs, hall, hxs⟩ := ih
    exact ⟨x :: xs, decodeAll_ready hx.ready hone rfl hall rfl, .cons hx hxs⟩

/-- Settles O32: the steps in Ready cover the bytes they advance over, up to the range's end. -/
theorem decodeAllCoversRange : Obligations.DecodeAllCoversRange := by
  intro s hinv
  obtain ⟨xs, hall, hcovers, hstatus, hlen⟩ := hinv.decodeAll_eq
  exact ⟨xs, hall, hcovers, hstatus, hlen⟩

/-! ### PULL -/

/-- PULL once the terminal record was handed out (R95). -/
theorem pull_done {s : State} (h : s.tDone = true) : pull s = .next { s with reply := .endOfSequence } :=
  if_pos h

/-- PULL before that: the record of one DECODE_ONE, handed on as an item (R95). -/
theorem pull_not_done {s t : State} {x : Emission} (h : s.tDone = false) (hone : decodeOne s = .next t)
    (hx : t.reply = .record x) : pull s = .next { t with reply := .item x, tDone := x.record.status == .terminal } := by
  simp [pull, h, hone, hx]

/-- Settles O36: the adapter's bit alone decides between `End` and a DECODE_ONE. -/
theorem pullStepsOnce : Obligations.PullStepsOnce :=
  ⟨fun _ _ => step_of_pending, fun _ => pull_done, fun _ _ _ => pull_not_done⟩

/-- The first item of a run of PULLs, and the items of the rest. -/
theorem pullItems_succ {n : Nat} {s t u : State} {x : Emission} {xs : List Emission} (h : pull s = .next t)
    (hx : t.reply = .item x) (hrest : pullItems n t = some (xs, u)) : pullItems (n + 1) s = some (x :: xs, u) := by
  simp only [pullItems, h, hx, hrest, Option.map_some]

/-- DECODE_ONE takes nothing from what was returned last (log 2). -/
theorem decodeOne_setReply {s t : State} (r : Reply) (h : decodeOne s = .next t) :
    decodeOne { s with reply := r } = .next t := by
  obtain ⟨p, x, rfl, -⟩ := decodeOne_emit h
  exact decodeOne_congr (s := s) (s' := { s with reply := r }) rfl rfl rfl h rfl fun _ _ => rfl

/-- As many PULLs as DECODE_ALL returns records hand out these records, whatever was returned before the first PULL. -/
theorem State.Inv.pullItems_eq {s : State} (hinv : s.Inv) (hdone : s.tDone = false) :
    ∃ t xs u, decodeAll s = .next t ∧ t.reply = .records xs ∧
      (∀ r, pullItems xs.length { s with reply := r } = some (xs, u)) ∧ u.tDone = true ∧ u.pc = t.pc := by
  induction s, hinv using State.Inv.decode_induction with
  | exhausted s hinv heq =>
    have hone := decodeOne_exhausted (Nat.le_of_eq heq.symm)
    exact ⟨_, _, _, decodeAll_exhausted (Nat.le_of_eq heq.symm), rfl,
      fun r => pullItems_succ (pull_not_done (s := { s with reply := r }) hdone (decodeOne_setReply r hone) rfl) rfl rfl,
      rfl, rfl⟩
  | ready s hinv x hx hone _ ih =>
    obtain ⟨t, xs, u, hall, hxs, hitems, hu⟩ := ih hdone
    refine ⟨_, _, u, decodeAll_ready hx.ready hone rfl hall hxs, rfl, fun r => ?_, hu⟩
    have hpull := pull_not_done (s := { s with reply := r }) hdone (decodeOne_setReply r hone) rfl
    rw [beq_false_of_ne hx.status, ← hdone] at hpull
    exact pullItems_succ hpull rfl (hitems (.item x))

/-- Settles O35: the last item is the terminal record, which sets the adapter's bit for good. -/
theorem pullSequenceIsDecodeAll : Obligations.PullSequenceIsDecodeAll := by
  intro s t xs hinv hdone h hxs
  obtain ⟨t', xs', u, h', hxs', hitems, hu, hpc⟩ := hinv.pullItems_eq hdone
  obtain rfl : t = t' := Host.Outcome.next.inj (h.symm.trans h')
  obtain rfl : xs = xs' := Reply.records.inj (hxs.symm.trans hxs')
  exact ⟨u, hitems s.reply, hu, hpc, pull_done hu, pull_done (s := { u with reply := .endOfSequence }) hu⟩

end Sys2Proof.Machine
end

section
/-!
PROOFS of the statements on the special table (spec 41_special.md): BRK (R110), the implied opcodes (R111 to R134), the branches
(R135 to R142) and JSR (R143), each an encoding that is checked against the tables and a step that follows from it.
-/

namespace Sys2Proof.Machine

open Sys2Proof.Claims

/-! ### The operand of a mode of each width (R71) -/

section
variable {s : State} {md : Mode} {b1 b2 : Byte}

theorem fetchOperand_of_width_zero (hw : md.width = 0) : fetchOperand s (some md) = .ok ⟨none, []⟩ := by
  simp only [fetchOperand, hw]

theorem fetchOperand_of_width_one (hw : md.width = 1) (h1 : s.readByte (s.pc + 1) = .ok b1) :
    fetchOperand s (some md) = .ok ⟨some (.byte b1), [s.pc + 1]⟩ := by
  simp only [fetchOperand, hw, h1]

theorem fetchOperand_of_width_two (hw : md.width = 2) (h1 : s.readByte (s.pc + 1) = .ok b1)
    (h2 : s.readByte (s.pc + 2) = .ok b2) :
    fetchOperand s (some md) = .ok ⟨some (.half (assembleHalf b1 b2)), [s.pc + 1, s.pc + 2]⟩ := by
  simp only [fetchOperand, hw, h1, h2]

end

/-! ### The step of a class with a mode (R92, R80, R82) -/

section
variable {c : OpClass} {mn : Mnemonic} {md : Mode} (hmn : c.mnemonic = some mn) (hmd : c.mode = some md)

include hmd in
theorem modeField_of_mode : modeField c = some (.legal md) := by
  cases c <;> cases hmd <;> rfl

include hmn hmd

/-- An implied mode renders the mnemonic alone, whether or not its bytes fit. -/
theorem stepText_implied (himp : md = .imp) (p : Params) (trunc : Bool) (v : Option OperandValue) :
    stepText p c trunc v = mnemonicText mn := by
  cases c <;> cases hmn <;> cases hmd <;> exact if_pos himp

theorem stepText_truncated (hne : md ≠ .imp) (p : Params) (v : Option OperandValue) :
    stepText p c true v = mnemonicText mn ++ " " ++ p.truncated := by
  cases c <;> cases hmn <;> cases hmd <;> exact if_neg hne

theorem stepText_operand (hne : md ≠ .imp) (p : Params) (v : Option OperandValue) :
    stepText p c false v = mnemonicText mn ++ " " ++ operandText md v := by
  cases c <;> cases hmn <;> cases hmd <;> exact if_neg hne

/-- The normal advance is the step that fits. -/
theorem decodeAs_eq_fitted {s : State} {op : Byte} {f : Fetched} (hfits : s.pc + lengthRom op ≤ s.rangeEnd)
    (hf : fetchOperand s (some md) = .ok f) :
    decodeAs op c s =
      .next (fitted s (lengthRom op) op mn md f.value (stepText s.params c false f.value) (s.pc :: f.reads)) := by
  obtain ⟨hpos, -⟩ := Laws.LengthBounds.lengthRom_bounds op
  rw [decodeAs_ok hmd (by omega) hfits (hmd ▸ hf), State.advanceStep, fittingRecord, hmn, modeField_of_mode hmd]
  rfl

/-- The truncation clamp is the cut step. -/
theorem decodeAs_eq_cut {s : State} {op : Byte} (hready : s.pc < s.rangeEnd) (hshort : s.rangeEnd < s.pc + lengthRom op) :
    decodeAs op c s = .next (cut s op mn md (stepText s.params c true none)) := by
  rw [decodeAs_truncated hmd hready hshort, State.truncateStep, truncatedRecord, hmn, modeField_of_mode hmd]
  rfl

end

/-! ### From a row of the special table to its rule -/

/-- What the tables hold for a rule: its row of R63, the length of R75, the class of R64 to R70 for its byte, and its letters. -/
abbrev MatchesTables (r : SpecialSpec) (md : Mode) (len : Nat) : Prop :=
  specialRow? r.opcode = some ⟨r.opcode, r.instr, r.mnemonic, md⟩ ∧ lengthRom r.opcode = len ∧
    (∀ z : Bool, familyClass z r.opcode = r.without) ∧ mnemonicText r.mnemonic = r.name

section
variable {r : SpecialSpec} {md : Mode} {len : Nat} (h : MatchesTables r md len)
include h

/-- The special table comes first in the decoder and in the classifier (R62), and the encoder gives the decoded byte back. -/
theorem MatchesTables.specialEncoding : SpecialEncoding r md len := by
  obtain ⟨hrow, hlen, hfamily, -⟩ := h
  have hdecode : decode r.opcode = r.instr := by simp only [decode, hrow]
  refine ⟨?_, hdecode, hlen, fun z => ⟨by simp only [classify, hrow], hfamily z⟩⟩
  rw [← hdecode, encode_decode]

/-- The rule's meaning is the shared step for its byte, under the class the classifier gives it. -/
theorem MatchesTables.exec_eq (s : State) : exec r.instr s = decodeAs r.opcode (.special r.mnemonic md) s := by
  obtain ⟨-, hdecode, -, hclass⟩ := h.specialEncoding
  rw [← hdecode, execFollowsClassifier, (hclass _).1]

variable {s : State}

theorem MatchesTables.exec_fits {f : Fetched} (hfits : s.pc + len ≤ s.rangeEnd) (hf : fetchOperand s (some md) = .ok f) :
    exec r.instr s = .next (fitted s len r.opcode r.mnemonic md f.value
      (stepText s.params (.special r.mnemonic md) false f.value) (s.pc :: f.reads)) := by
  have ⟨_, hlen, _⟩ := h
  subst hlen
  rw [h.exec_eq, decodeAs_eq_fitted rfl rfl hfits hf]

theorem MatchesTables.exec_short (hready : s.pc < s.rangeEnd) (hshort : s.rangeEnd < s.pc + len) :
    exec r.instr s = .next (cut s r.opcode r.mnemonic md
      (stepText s.params (.special r.mnemonic md) true none)) := by
  have ⟨_, hlen, _⟩ := h
  subst hlen
  rw [h.exec_eq, decodeAs_eq_cut rfl rfl hready hshort]

/-- A mode with an operand renders the mnemonic and the operand by the mode's template (R67). -/
theorem MatchesTables.exec_operand (hne : md ≠ .imp) {f : Fetched} (hfits : s.pc + len ≤ s.rangeEnd)
    (hf : fetchOperand s (some md) = .ok f) :
    exec r.instr s = .next (fitted s len r.opcode r.mnemonic md f.value
      (r.name ++ " " ++ operandText md f.value) (s.pc :: f.reads)) := by
  have ⟨_, _, _, hname⟩ := h
  rw [h.exec_fits hfits hf, stepText_operand rfl rfl hne, hname]

/-- A mode with an operand that is cut short has the truncation sentinel in the operand's place. -/
theorem MatchesTables.cutShort (hne : md ≠ .imp) : CutShort r.instr r.opcode r.mnemonic r.name md len s := by
  intro hready hshort
  have ⟨_, _, _, hname⟩ := h
  rw [h.exec_short hready hshort, stepText_truncated rfl rfl hne, hname]

end

section
variable {r : SpecialSpec} {s : State} {len : Nat}

/-- An implied opcode that fits renders its mnemonic and reads nothing else, whatever its length is. -/
theorem MatchesTables.exec_implied (h : MatchesTables r .imp len) (hfits : s.pc + len ≤ s.rangeEnd) :
    exec r.instr s = .next (fitted s len r.opcode r.mnemonic .imp none r.name [s.pc]) := by
  have ⟨_, _, _, hname⟩ := h
  rw [h.exec_fits hfits (fetchOperand_of_width_zero rfl), stepText_implied rfl rfl rfl, hname]

/-- An implied opcode that is cut short has no sentinel in its text (R80). -/
theorem MatchesTables.exec_implied_short (h : MatchesTables r .imp len) (hready : s.pc < s.rangeEnd)
    (hshort : s.rangeEnd < s.pc + len) : exec r.instr s = .next (cut s r.opcode r.mnemonic .imp r.name) := by
  have ⟨_, _, _, hname⟩ := h
  rw [h.exec_short hready hshort, stepText_implied rfl rfl rfl, hname]

theorem MatchesTables.impliedRule (h : MatchesTables r .imp 1) : ImpliedRule r :=
  ⟨h.specialEncoding, fun _ hready => h.exec_implied hready⟩

theorem MatchesTables.branchRule (h : MatchesTables r .rel 2) : BranchRule r :=
  ⟨h.specialEncoding, fun _ => ⟨fun _ hfits h1 =>
    h.exec_operand Mode.noConfusion hfits (fetchOperand_of_width_one rfl h1), h.cutShort Mode.noConfusion⟩⟩

end

/-! ### The rules against the tables -/

theorem brk_matchesTables : MatchesTables ⟨.brk, 0x00, .brk, "BRK", .unknown⟩ .imp 2 := by decide

theorem stackSpecials_matchTables : ∀ r ∈ stackSpecials, MatchesTables r .imp 1 := by decide

theorem transferSpecials_matchTables : ∀ r ∈ transferSpecials, MatchesTables r .imp 1 := by decide

theorem flagSpecials_matchTables : ∀ r ∈ flagSpecials, MatchesTables r .imp 1 := by decide

theorem branchSpecials_matchTables : ∀ r ∈ branchSpecials, MatchesTables r .rel 2 := by decide

theorem jsr_matchesTables : MatchesTables ⟨.jsr, 0x20, .jsr, "JSR", .generic .bit .imm⟩ .abs 3 := by decide

/-! ### The statements -/

/-- Settles O39: BRK is an implied opcode of length 2, so its padding byte enters the length check and nothing else. -/
theorem brkSkipsPadding : Obligations.BrkSkipsPadding := by
  refine ⟨brk_matchesTables.specialEncoding, fun s => ⟨brk_matchesTables.exec_implied, fun hlast => ?_⟩⟩
  exact brk_matchesTables.exec_implied_short (by omega) (by omega)

/-- Settles O40: each row is an implied row of the special table. -/
theorem stackOpcodesDecode : Obligations.StackOpcodesDecode :=
  fun r hr => (stackSpecials_matchTables r hr).impliedRule

/-- Settles O41: each row is an implied row of the special table. -/
theorem transferOpcodesDecode : Obligations.TransferOpcodesDecode :=
  fun r hr => (transferSpecials_matchTables r hr).impliedRule

/-- Settles O42: each row is an implied row of the special table. -/
theorem flagOpcodesDecode : Obligations.FlagOpcodesDecode :=
  fun r hr => (flagSpecials_matchTables r hr).impliedRule

/-- Settles O43: each row is a relative row of the special table, whose operand is the raw offset byte. -/
theorem branchOpcodesDecode : Obligations.BranchOpcodesDecode :=
  fun r hr => (branchSpecials_matchTables r hr).branchRule

/-- Settles O44: JSR's absolute mode reads the operand's low byte and then its high one. -/
theorem jsrDecodes : Obligations.JsrDecodes := by
  refine ⟨jsr_matchesTables.specialEncoding, fun s => ⟨fun b1 b2 hfits h1 h2 => ?_, ?_⟩⟩
  · exact jsr_matchesTables.exec_operand Mode.noConfusion hfits (fetchOperand_of_width_two rfl h1 h2)
  · exact jsr_matchesTables.cutShort Mode.noConfusion

/-- Settles O5: each word is the encoding of the instruction it is said to decode to, or one of R181's bytes. -/
theorem writtenOutBytesDecode : Obligations.WrittenOutBytesDecode :=
  ⟨decodeOfEncode .brk rfl, decodeOfEncode .beq rfl, decodeOfEncode (.adc .abs) rfl, decodeOfEncode (.jmp .three .abs) rfl,
    decodeOfEncode (.asl .acc) rfl, decodeOfEncode (.stx .ill4) rfl, decode_of_isUnknownByte 0x1C rfl,
    decode_of_isUnknownByte 0xFF rfl⟩

end Sys2Proof.Machine
end

section
/-!
PROOFS of the statements on the families' tables (spec 42_family01.md R150 to R157). A legal row of any family is what the
encoder, the classifier and the templates of R67 give for its byte; family 01 has one row for each column of MODE_01 (R69).
-/

namespace Sys2Proof.Machine

open Sys2Proof.Claims

/-! ### The form of a mode (R67) -/

/-- The row of R67 for a mode, as the model's width and template give it. -/
def formOf (md : Mode) : Form := ⟨md, md.width, templateBefore md, templateAfter md⟩

section
variable {s : State} {i : Instr} {op : Byte} {mn : Mnemonic} {md : Mode}
  (hexec : exec i s = decodeAs op (.generic mn md) s) (hlen : lengthRom op = 1 + md.width) (hne : md ≠ .imp)
include hexec hlen hne

/-- A generic step that fits renders the mnemonic and the operand by the mode's template. -/
theorem exec_generic_fits {f : Fetched} (hfits : s.pc + (1 + md.width) ≤ s.rangeEnd)
    (hf : fetchOperand s (some md) = .ok f) :
    exec i s = .next (fitted s (1 + md.width) op mn md f.value (mnemonicText mn ++ " " ++ operandText md f.value)
      (s.pc :: f.reads)) := by
  rw [← hlen] at hfits ⊢
  rw [hexec, decodeAs_eq_fitted rfl rfl hfits hf, stepText_operand rfl rfl hne]

/-- The step that fits, by the width of the mode: no operand byte, one, or two with the low one first (R71). -/
theorem formFits_formOf : FormFits i op mn (mnemonicText mn) (formOf md) s := by
  have hstep {f : Fetched} := exec_generic_fits (f := f) hexec hlen hne
  unfold FormFits formOf
  obtain hw | hw | hw := Mode.width_cases md <;> simp only [hw] at hstep ⊢
  · exact fun hfits => hstep hfits (fetchOperand_of_width_zero hw)
  · exact fun _ hfits h1 => hstep hfits (fetchOperand_of_width_one hw h1)
  · exact fun _ _ hfits h1 h2 => hstep hfits (fetchOperand_of_width_two hw h1 h2)

/-- A generic step that is cut short has the truncation sentinel in the operand's place. -/
theorem cutShort_formOf : CutShort i op mn (mnemonicText mn) md (1 + md.width) s := by
  intro hready hshort
  rw [← hlen] at hshort
  rw [hexec, decodeAs_eq_cut rfl rfl hready hshort, stepText_truncated rfl rfl hne]

end

/-! ### From the tables to a row -/

/-- BRK, the one byte whose length is not its mode's (R74), is no Generic byte. -/
theorem lengthRom_of_classify_generic {z : Bool} {op : Byte} {mn : Mnemonic} {md : Mode}
    (h : classify z op = .generic mn md) : lengthRom op = 1 + md.width := by
  refine lengthRom_of_mode z op ?_ md (by rw [h]; rfl)
  rintro rfl
  cases h

/-- A well-formed instruction whose byte has a Generic class with an operand is a row with the form of the class's mode. -/
theorem familyRow_of_classify {i : Instr} {n : Nat} {mn : Mnemonic} {md : Bool → Mode} (hwf : i.wellFormed = true)
    (henc : encode i = BitVec.ofNat 8 n) (hclass : ∀ z, classify z (encode i) = .generic mn (md z))
    (hne : ∀ z, md z ≠ .imp) : FamilyRow i n mn (mnemonicText mn) (fun z => formOf (md z)) := by
  have hdecode : decode (encode i) = i := decodeOfEncode i hwf
  have hlen (z : Bool) := lengthRom_of_classify_generic (hclass z)
  have hexec (s : State) : exec i s = decodeAs (encode i) (.generic mn (md s.params.zpySubst)) s := by
    rw [← hclass, ← execFollowsClassifier, hdecode]
  rw [FamilyRow, ← henc]
  exact ⟨rfl, hdecode, fun z => ⟨hclass z, hlen z⟩, fun s =>
    ⟨formFits_formOf (hexec s) (hlen _) (hne _), cutShort_formOf (hexec s) (hlen _) (hne _)⟩⟩

/-! ### Family 01 (R69) -/

/-- The byte `aaabbbcc` as a number (R61). -/
theorem packOpcode_eq_ofNat : ∀ (i m : BitVec 3) (f : BitVec 2),
    packOpcode i m f = BitVec.ofNat 8 (32 * i.toNat + (4 * m.toNat + f.toNat)) := by
  decide

/-- Every byte of family 01 is Generic, whatever `ZPY_SUBST` is. -/
theorem classify_packOpcode_family01 (z : Bool) (i m : BitVec 3) :
    classify z (packOpcode i m 1) = .generic (instr01 i) (mode01 m) := by
  rw [classify, specialRow?_family01]
  simp [familyClass, familyMnemonic, resolve]

theorem mode01_ne_imp : ∀ m : BitVec 3, mode01 m ≠ .imp := by
  decide

/-- The mnemonic of an instruction index has its eight rows, one for each column. -/
theorem family01Rule_of_encode {ctor : Mode01 → Instr} (i : BitVec 3) (hwf : ∀ m, (ctor m).wellFormed = true)
    (henc : ∀ m, encode (ctor m) = packOpcode i m.index 1) :
    Family01Rule ctor i.toNat (instr01 i) (mnemonicText (instr01 i)) := by
  have hrow (m : Mode01) : FamilyRow (ctor m) (32 * i.toNat + (4 * m.index.toNat + 1)) (instr01 i)
      (mnemonicText (instr01 i)) (fun _ => formOf (mode01 m.index)) := by
    refine familyRow_of_classify (hwf m) ?_ (fun z => ?_) (fun _ => mode01_ne_imp m.index)
    · rw [henc, packOpcode_eq_ofNat]
      rfl
    · rw [henc, classify_packOpcode_family01]
  exact ⟨hrow .izx, hrow .zp, hrow .imm, hrow .abs, hrow .izy, hrow .zpx, hrow .aby, hrow .abx⟩

/-- Settles O45: each of the eight mnemonics is an instruction index of family 01 (R64), and its constructor is well-formed and packs
that index in every column. -/
theorem family01Decodes : Obligations.Family01Decodes := by
  refine ⟨family01Rule_of_encode 0 ?_ ?_, family01Rule_of_encode 1 ?_ ?_, family01Rule_of_encode 2 ?_ ?_,
    family01Rule_of_encode 3 ?_ ?_, family01Rule_of_encode 4 ?_ ?_, family01Rule_of_encode 5 ?_ ?_,
    family01Rule_of_encode 6 ?_ ?_, family01Rule_of_encode 7 ?_ ?_⟩
  all_goals exact fun _ => rfl

end Sys2Proof.Machine
end

section
/-!
PROOFS of the statements on family 00 (spec 43_family00.md): the rows that `MODE_00` gives each mnemonic of `INSTR_00` (R160 to R165),
and the bytes of index 0, where that table has no mnemonic (R166, R181).
-/

namespace Sys2Proof.Machine

open Sys2Proof.Claims

/-! ### From an instruction's class to its row -/

/-- The classifier gives the byte of a well-formed instruction the class that the instruction runs under. -/
theorem classify_encode {i : Instr} (hwf : i.wellFormed = true) (p : Params) :
    classify p.zpySubst (encode i) = instrClass p i := by
  rw [← instrClass_decode, decodeOfEncode i hwf]

/-- A well-formed instruction that runs under a Generic class with an operand is a row with the form of the class's mode. -/
theorem familyRow_of_instrClass {i : Instr} {n : Nat} {mn : Mnemonic} {md : Bool → Mode} (hwf : i.wellFormed = true)
    (henc : encode i = BitVec.ofNat 8 n) (hclass : ∀ p : Params, instrClass p i = .generic mn (md p.zpySubst))
    (hne : ∀ z, md z ≠ .imp) : FamilyRow i n mn (mnemonicText mn) (fun z => formOf (md z)) :=
  familyRow_of_classify hwf henc
    (fun z => (classify_encode hwf { State.reset.params with zpySubst := z }).trans (hclass _)) hne

/-! ### The mnemonics of family 00 (R65, R68) -/

section
variable {ctor : Mode00 → Instr} {mn : Mnemonic} (k : BitVec 3)
  (henc : ∀ m, encode (ctor m) = packOpcode k m.index 0) (hclass : ∀ p m, instrClass p (ctor m) = class00 mn m)
include henc hclass

/-- A column that the special table leaves is a row of the column's mode. -/
theorem family00Row_of_column {m : Mode00} {md : Mode} (hwf : (ctor m).wellFormed = true)
    (hcol : class00 mn m = .generic mn md) (hne : md ≠ .imp) :
    FamilyRow (ctor m) (32 * k.toNat + (4 * m.index.toNat + 0)) mn (mnemonicText mn) (fun _ => formOf md) := by
  refine familyRow_of_instrClass hwf ?_ (fun p => (hclass p m).trans hcol) (fun _ => hne)
  rw [henc, packOpcode_eq_ofNat]
  rfl

/-- The mnemonic of an instruction index has its rows of columns 1, 3, 5 and 7. -/
theorem family00Rule_of_encode (hwf : ∀ m, m ≠ .imm → (ctor m).wellFormed = true) :
    Family00Rule ctor k.toNat mn (mnemonicText mn) := by
  have hrow {m : Mode00} (hm : m ≠ .imm) {md : Mode} := family00Row_of_column k henc hclass (md := md) (hwf m hm)
  exact ⟨hrow Mode00.noConfusion rfl Mode.noConfusion, hrow Mode00.noConfusion rfl Mode.noConfusion,
    hrow Mode00.noConfusion rfl Mode.noConfusion, hrow Mode00.noConfusion rfl Mode.noConfusion⟩

/-- From index 4 on the special table leaves column 0 too, so the mnemonic has an immediate row besides. -/
theorem family00Rule_with_imm (hwf : ∀ m, (ctor m).wellFormed = true) :
    Family00Rule ctor k.toNat mn (mnemonicText mn) ∧
      FamilyRow (ctor .imm) (32 * k.toNat) mn (mnemonicText mn) (fun _ => formImm) :=
  ⟨family00Rule_of_encode k henc hclass fun m _ => hwf m,
    family00Row_of_column k henc hclass (hwf .imm) rfl Mode.noConfusion⟩

end

/-- Settles O46: each mnemonic packs its instruction index of R65 and runs under the mode of its column; BIT and JMP lose column 0 to
JSR, RTI and RTS. -/
theorem family00Decodes : Obligations.Family00Decodes := by
  refine ⟨family00Rule_of_encode 1 ?_ ?_ fun _ => bne_iff_ne.mpr, family00Rule_of_encode 2 ?_ ?_ fun _ => bne_iff_ne.mpr,
    family00Rule_of_encode 3 ?_ ?_ fun _ => bne_iff_ne.mpr, family00Rule_with_imm 4 ?_ ?_ fun _ => rfl,
    family00Rule_with_imm 5 ?_ ?_ fun _ => rfl, family00Rule_with_imm 6 ?_ ?_ fun _ => rfl,
    family00Rule_with_imm 7 ?_ ?_ fun _ => rfl⟩
  all_goals intros; rfl

/-! ### The Unknown bytes (R181) -/

/-- The family tables give Unknown exactly where they have no mnemonic: a verdict ILL is an IllegalMode. -/
theorem familyClass_eq_unknown_iff (z : Bool) (op : Byte) : familyClass z op = .unknown ↔ familyMnemonic op = none := by
  unfold familyClass
  cases familyMnemonic op with
  | none => simp
  | some mn => cases resolve z (opFamily op) (opInstrIndex op) (opModeIndex op) <;> simp

/-- A byte is Unknown exactly where neither the special table nor the family tables have a mnemonic for it. -/
theorem classify_eq_unknown_iff (z : Bool) (op : Byte) :
    classify z op = .unknown ↔ specialRow? op = none ∧ familyMnemonic op = none := by
  unfold classify
  cases specialRow? op with
  | none => simp [familyClass_eq_unknown_iff]
  | some r => simp

/-- The tables have no mnemonic for family 11, and for what the special table leaves of family 00's index 0. -/
theorem no_mnemonic_iff_isUnknownByte : ∀ op : Byte,
    specialRow? op = none ∧ familyMnemonic op = none ↔ isUnknownByte op = true := by
  decide

theorem isUnknownByte_iff (op : Byte) :
    isUnknownByte op = true ↔ op.toNat % 4 = 3 ∨ op ∈ [0x04, 0x0C, 0x14, 0x1C] := by
  simp [isUnknownByte, or_assoc, BitVec.toNat_eq]

/-- A byte of R181 has its row: its class has no mode, so its length is 1 and its step is the advance past the opcode. -/
theorem unknownRow_of_isUnknownByte {op : Byte} (h : isUnknownByte op = true) : UnknownRow op := by
  have htables := (no_mnemonic_iff_isUnknownByte op).mpr h
  have ⟨hrow, _⟩ := htables
  have hclass (z : Bool) : classify z op = .unknown := (classify_eq_unknown_iff z op).mpr htables
  have hlen : lengthRom op = 1 := lengthRom_of_mode_none false op (by rw [hclass]; rfl)
  refine ⟨hclass, hrow, decode_of_isUnknownByte op h, rfl, hlen, fun s hready => ?_⟩
  rw [exec_eq_decodeAs]
  exact (decodeAs_unknown hready op).trans (by rw [hlen]; rfl)

/-- Settles O52: the four bytes are among R181's, which are the bytes that no table has a mnemonic for. -/
theorem index0BytesAreUnknown : Obligations.Index0BytesAreUnknown := by
  refine ⟨unknownRow_of_isUnknownByte rfl, unknownRow_of_isUnknownByte rfl, unknownRow_of_isUnknownByte rfl,
    unknownRow_of_isUnknownByte rfl, fun z op => ?_⟩
  rw [classify_eq_unknown_iff, no_mnemonic_iff_isUnknownByte, isUnknownByte_iff]

end Sys2Proof.Machine
end

section
/-!
PROOFS of the statements on family 10 (spec 44_family10.md): the rows that `MODE_10` gives each mnemonic of `INSTR_10` under either value
of `ZPY_SUBST` (R170 to R177), and the IllegalMode bytes of its ILL columns (R178).
-/

namespace Sys2Proof.Machine

open Sys2Proof.Claims

/-! ### What `ZPY_SUBST` reaches (R70) -/

/-- The substitution is for columns 5 and 7: every other column has its own entry. -/
theorem resolve10_of_column {m : Mode10} (h5 : m ≠ .zpx) (h7 : m ≠ .abx) (z : Bool) (mn : Mnemonic) :
    resolve10 z mn m = columnMode10 m := by
  simp [resolve10, h5, h7]

/-- The substitution is for STX and LDX: every other mnemonic has its columns' own entries. -/
theorem resolve10_of_mnemonic {mn : Mnemonic} (h : mn ∉ [.stx, .ldx]) (z : Bool) (m : Mode10) :
    resolve10 z mn m = columnMode10 m := by
  simp only [List.mem_cons, List.not_mem_nil, or_false, not_or] at h
  simp [resolve10, h]

/-- No column of `MODE_10` is implied, whether substituted or not. -/
theorem resolve10_ne_imp (z : Bool) (mn : Mnemonic) (m : Mode10) : resolve10 z mn m ≠ some .imp := by
  unfold resolve10
  split
  case isTrue => exact nofun
  case isFalse =>
    split
    case isTrue => exact nofun
    case isFalse => cases m <;> exact nofun

theorem class10_of_resolve_some {p : Params} {mn : Mnemonic} {m : Mode10} {md : Mode}
    (h : resolve10 p.zpySubst mn m = some md) : class10 p mn m = .generic mn md := by
  rw [class10, h]

theorem class10_of_resolve_none {p : Params} {mn : Mnemonic} {m : Mode10} (h : resolve10 p.zpySubst mn m = none) :
    class10 p mn m = .illegalMode mn := by
  rw [class10, h]

/-- Column 5 of STX and LDX is indexed by Y under `ZPY_SUBST`. -/
theorem resolve10_zpx_form {mn : Mnemonic} (h : mn ∈ [.stx, .ldx]) (z : Bool) :
    (resolve10 z mn .zpx).map formOf = some (zpIndexed z) := by
  simp only [List.mem_cons, List.not_mem_nil, or_false] at h
  obtain rfl | rfl := h <;> cases z <;> rfl

/-- Column 7 of STX is indexed by X under either value of `ZPY_SUBST`. -/
theorem resolve10_stx_abx_form (z : Bool) : (resolve10 z .stx .abx).map formOf = some formAbx := by
  cases z <;> rfl

/-- Column 7 of LDX is indexed by Y under `ZPY_SUBST`. -/
theorem resolve10_ldx_abx_form (z : Bool) : (resolve10 z .ldx .abx).map formOf = some (absIndexedLdx z) := by
  cases z <;> rfl

/-! ### ILL rows (R178) -/

/-- A well-formed instruction that runs under an IllegalMode class is an ILL row: its class has no mode, so its length is 1 and its
step is the advance past the opcode. -/
theorem illegalRow_of_instrClass {i : Instr} {n : Nat} {mn : Mnemonic} (hwf : i.wellFormed = true)
    (henc : encode i = BitVec.ofNat 8 n) (hclass : ∀ p : Params, instrClass p i = .illegalMode mn) :
    IllegalRow i n mn (mnemonicText mn) := by
  have hbyte (z : Bool) : classify z (encode i) = .illegalMode mn :=
    (classify_encode hwf { State.reset.params with zpySubst := z }).trans (hclass _)
  have hlen : lengthRom (encode i) = 1 := lengthRom_of_mode_none false _ (by rw [hbyte]; rfl)
  rw [IllegalRow, ← henc]
  refine ⟨rfl, decodeOfEncode i hwf, hlen, hbyte, fun s hready => ?_⟩
  rw [exec_eq_decodeAs, hclass, decodeAs_illegalMode hready, hlen]
  rfl

/-! ### The mnemonics of family 10 (R66, R70) -/

section
variable {ctor : Mode10 → Instr} {mn : Mnemonic} (k : BitVec 3)
  (henc : ∀ m, encode (ctor m) = packOpcode k m.index 2) (hclass : ∀ p m, instrClass p (ctor m) = class10 p mn m)
include henc

/-- The byte of a column as a number. -/
theorem encode_family10_eq_ofNat (m : Mode10) :
    encode (ctor m) = BitVec.ofNat 8 (32 * k.toNat + (4 * m.index.toNat + 2)) := by
  rw [henc, packOpcode_eq_ofNat]
  rfl

include hclass

/-- A column with a mode, under either value of `ZPY_SUBST`, is a row of that mode's form. -/
theorem family10Row_of_form {m : Mode10} {f : Bool → Form} (hwf : (ctor m).wellFormed = true)
    (hf : ∀ z, (resolve10 z mn m).map formOf = some (f z)) :
    FamilyRow (ctor m) (32 * k.toNat + (4 * m.index.toNat + 2)) mn (mnemonicText mn) f := by
  have hmode (z : Bool) : resolve10 z mn m = some (f z).mode ∧ formOf (f z).mode = f z := by
    obtain ⟨md, hmd, hform⟩ := Option.map_eq_some_iff.mp (hf z)
    rw [← hform]
    exact ⟨hmd, rfl⟩
  have hforms : f = fun z => formOf (f z).mode := funext fun z => (hmode z).2.symm
  rw [hforms]
  refine familyRow_of_instrClass hwf (encode_family10_eq_ofNat k henc m) (fun p => ?_) (fun z himp => ?_)
  · rw [hclass, class10_of_resolve_some (hmode _).1]
  · exact resolve10_ne_imp z mn m (himp ▸ (hmode z).1)

/-- A column that `ZPY_SUBST` does not reach, with its own entry for its mode. -/
theorem family10Row_of_column {m : Mode10} {md : Mode} (hwf : (ctor m).wellFormed = true)
    (hres : ∀ z, resolve10 z mn m = columnMode10 m) (hcol : columnMode10 m = some md) :
    FamilyRow (ctor m) (32 * k.toNat + (4 * m.index.toNat + 2)) mn (mnemonicText mn) (fun _ => formOf md) :=
  family10Row_of_form k henc hclass hwf fun z => by rw [hres, hcol]; rfl

/-- An ILL column of `MODE_10` is an ILL row. -/
theorem illegalRow_of_column {m : Mode10} (hwf : (ctor m).wellFormed = true)
    (hres : ∀ z, resolve10 z mn m = columnMode10 m) (hcol : columnMode10 m = none) :
    IllegalRow (ctor m) (32 * k.toNat + (4 * m.index.toNat + 2)) mn (mnemonicText mn) := by
  refine illegalRow_of_instrClass hwf (encode_family10_eq_ofNat k henc m) fun p => ?_
  rw [hclass, class10_of_resolve_none ((hres _).trans hcol)]

/-- The special table leaves columns 0, 1, 3, 4, 5 and 7 to every mnemonic; the forms of columns 5 and 7 may depend on `ZPY_SUBST`. -/
theorem family10Rule_with_ill4 {f5 f7 : Bool → Form} (hwf : ∀ m, m ≠ .acc → m ≠ .ill6 → (ctor m).wellFormed = true)
    (h5 : ∀ z, (resolve10 z mn .zpx).map formOf = some (f5 z))
    (h7 : ∀ z, (resolve10 z mn .abx).map formOf = some (f7 z)) :
    Family10Rule ctor k.toNat mn (mnemonicText mn) f5 f7 ∧ Ill4Row ctor k.toNat mn (mnemonicText mn) := by
  have hform {m : Mode10} (hacc : m ≠ .acc) (hill : m ≠ .ill6) {f : Bool → Form} :=
    family10Row_of_form k henc hclass (f := f) (hwf m hacc hill)
  have hrow {m : Mode10} (hacc : m ≠ .acc) (hill : m ≠ .ill6) (hzpx : m ≠ .zpx) (habx : m ≠ .abx) {md : Mode} :=
    family10Row_of_column k henc hclass (md := md) (hwf m hacc hill) fun z => resolve10_of_column hzpx habx z mn
  refine ⟨⟨hrow ?_ ?_ ?_ ?_ rfl, hrow ?_ ?_ ?_ ?_ rfl, hrow ?_ ?_ ?_ ?_ rfl, hform ?_ ?_ h5, hform ?_ ?_ h7⟩,
    illegalRow_of_column k henc hclass (hwf .ill4 ?_ ?_) (fun z => resolve10_of_column ?_ ?_ z mn) rfl⟩
  all_goals exact Mode10.noConfusion

/-- A mnemonic that `ZPY_SUBST` does not reach and whose column 6 the special table leaves. -/
theorem family10Rule_with_ills (hmn : mn ∉ [.stx, .ldx]) (hwf : ∀ m, m ≠ .acc → (ctor m).wellFormed = true) :
    Family10Rule ctor k.toNat mn (mnemonicText mn) (fun _ => formZpx) (fun _ => formAbx) ∧
      Ill4Row ctor k.toNat mn (mnemonicText mn) ∧ Ill6Row ctor k.toNat mn (mnemonicText mn) := by
  have hres := resolve10_of_mnemonic hmn
  have ⟨hrule, hill4⟩ := family10Rule_with_ill4 k henc hclass (f5 := fun _ => formZpx) (f7 := fun _ => formAbx)
    (fun m hacc _ => hwf m hacc) (fun z => by rw [hres]; rfl) (fun z => by rw [hres]; rfl)
  exact ⟨hrule, hill4, illegalRow_of_column k henc hclass (hwf .ill6 Mode10.noConfusion) (hres · .ill6) rfl⟩

/-- A shift, whose accumulator column the special table leaves too. -/
theorem shiftRule_of_encode (hmn : mn ∉ [.stx, .ldx]) (hwf : ∀ m, (ctor m).wellFormed = true) :
    Family10Rule ctor k.toNat mn (mnemonicText mn) (fun _ => formZpx) (fun _ => formAbx) ∧
      AccRow ctor k.toNat mn (mnemonicText mn) ∧
      Ill4Row ctor k.toNat mn (mnemonicText mn) ∧ Ill6Row ctor k.toNat mn (mnemonicText mn) := by
  have ⟨hrule, hills⟩ := family10Rule_with_ills k henc hclass hmn fun m _ => hwf m
  exact ⟨hrule, family10Row_of_column k henc hclass (hwf .acc) (resolve10_of_mnemonic hmn · .acc) rfl, hills⟩

end

/-- Settles O47: each shift packs its instruction index of R66 and runs under its column's own entry, and the special table takes none of
its columns. -/
theorem shiftOpcodesDecode : Obligations.ShiftOpcodesDecode := by
  refine ⟨shiftRule_of_encode 0 ?_ ?_ (by decide) ?_, shiftRule_of_encode 1 ?_ ?_ (by decide) ?_,
    shiftRule_of_encode 2 ?_ ?_ (by decide) ?_, shiftRule_of_encode 3 ?_ ?_ (by decide) ?_⟩
  all_goals intros; rfl

/-- Settles O48: `ZPY_SUBST` gives column 5 of both its Y form and column 7 that of LDX only; columns 2 and 6 are the special table's. -/
theorem stxLdxFollowZpySubst : Obligations.StxLdxFollowZpySubst := by
  have hwf {m : Mode10} (hacc : m ≠ .acc) (hill : m ≠ .ill6) : (m != .acc && m != .ill6) = true := by simp [hacc, hill]
  refine ⟨family10Rule_with_ill4 4 ?_ ?_ (fun _ => hwf) (resolve10_zpx_form (by decide)) resolve10_stx_abx_form,
    family10Rule_with_ill4 5 ?_ ?_ (fun _ => hwf) (resolve10_zpx_form (by decide)) resolve10_ldx_abx_form⟩
  all_goals intros; rfl

/-- Settles O49: as for the shifts, except that column 2 is DEX and NOP. -/
theorem decIncDecode : Obligations.DecIncDecode := by
  refine ⟨family10Rule_with_ills 6 ?_ ?_ (by decide) fun _ => bne_iff_ne.mpr,
    family10Rule_with_ills 7 ?_ ?_ (by decide) fun _ => bne_iff_ne.mpr⟩
  all_goals intros; rfl

/-! ### The IllegalMode bytes (R178) -/

/-- The IllegalMode bytes of the classifier without the substitution. -/
theorem kindOf_classify_false_eq_illegalMode_iff : ∀ op : Byte, kindOf (classify false op) = .illegalMode ↔
    op ∈ [0x12, 0x32, 0x52, 0x72, 0x92, 0xB2, 0xD2, 0xF2, 0x1A, 0x3A, 0x5A, 0x7A, 0xDA, 0xFA] := by
  decide

/-- Settles O50: the rows are the ILL rows of the rules above, and `ZPY_SUBST` changes no byte's kind. -/
theorem illegalModeBytes : Obligations.IllegalModeBytes := by
  obtain ⟨⟨-, -, asl4, asl6⟩, ⟨-, -, rol4, rol6⟩, ⟨-, -, lsr4, lsr6⟩, ⟨-, -, ror4, ror6⟩⟩ := shiftOpcodesDecode
  obtain ⟨⟨-, stx4⟩, ⟨-, ldx4⟩⟩ := stxLdxFollowZpySubst
  obtain ⟨⟨-, dec4, dec6⟩, ⟨-, inc4, inc6⟩⟩ := decIncDecode
  refine ⟨⟨asl4, asl6, rol4, rol6, lsr4, lsr6, ror4, ror6, stx4, ldx4, dec4, dec6, inc4, inc6⟩, fun z op => ?_⟩
  rw [kindOf_classify, kindOf_classify_false_eq_illegalMode_iff]

end Sys2Proof.Machine
end

section
/-!
PROOFS of the statements on family 11 (spec 45_family11.md): its bytes are among the Unknown bytes of R181, for which
`unknownRow_of_isUnknownByte` gives the row.
-/

namespace Sys2Proof.Machine

/-- The two family bits alone make a byte of family 11 Unknown (R180). -/
theorem isUnknownByte_of_opFamily_eq_three {op : Byte} (h : opFamily op = 3) : isUnknownByte op = true := by
  rw [opFamily] at h
  simp [isUnknownByte, h]

/-- Settles O51: `aaa` and `bbb` leave the family bits of `aaabbb11` as they are, so every such byte is one of R181's. -/
theorem family11BytesAreUnknown : Obligations.Family11BytesAreUnknown :=
  fun a b => unknownRow_of_isUnknownByte (isUnknownByte_of_opFamily_eq_three (opFamily_packOpcode a b 3))

end Sys2Proof.Machine
end

section
/-!
PROOFS of the statements on the conditions (spec 60_exceptions.md): the status of a step and its order of priority (R190, R191), the
truncation clamp (R194), the cursor update as a condition's only effect (R196), and the decoder between commands (R207).
-/

namespace Sys2Proof.Machine

open Sys2Proof.Claims

/-! ### Exhausted, and between commands -/

/-- Settles O22: every meaning is the shared step, which is the terminal record in Exhausted whatever the byte and the class are. -/
theorem execInExhaustedIsTerminal : Obligations.ExecInExhaustedIsTerminal := by
  intro i s hex
  rw [exec_eq_decodeAs]
  exact decodeAs_exhausted hex _ _

/-- Settles O38: the action is taken off the waiting list, and doing nothing returns the state so left. -/
theorem idleHoldsState : Obligations.IdleHoldsState :=
  fun _ _ => step_of_pending

/-! ### The status and the cursor of a step -/

/-- DECODE_ONE in Ready is the shared step for the byte it reads, under the classifier's class. -/
theorem decodeOne_eq_decodeAs {s : State} {op : Byte} (hready : s.pc < s.rangeEnd) (hop : s.readByte s.pc = .ok op) :
    decodeOne s = decodeAs op (classify s.params.zpySubst op) s :=
  (decodeOne_ready hready hop).trans (execFollowsClassifier op s)

/-- R191's order, read from the kind of the class: the length plays a part only after the two kinds without a mode. -/
theorem pickStatus_eq_by_kind (pc e : Nat) (c : OpClass) (len : Nat) : pickStatus pc e c len =
    if e ≤ pc then .terminal
    else if kindOf c = .unknown then .unknownOpcode
    else if kindOf c = .illegalMode then .illegalMode
    else if e < pc + len then .truncated
    else .ok := by
  cases c <;> rfl

/-- The statuses of the two kinds without a mode. -/
theorem mode_none_of_pickStatus {pc e len : Nat} {c : OpClass}
    (h : pickStatus pc e c len = .unknownOpcode ∨ pickStatus pc e c len = .illegalMode) : c.mode = none := by
  cases hm : c.mode with
  | none => rfl
  | some md =>
    exfalso
    obtain hready | hex := Nat.lt_or_ge pc e
    · obtain hshort | hfits := Nat.lt_or_ge e (pc + len)
      · simp [pickStatus_truncated hm hready hshort] at h
      · simp [pickStatus_ok hm hready hfits] at h
    · simp [pickStatus_exhausted hex] at h

/-- Where a step with a status leaves the cursor, for an opcode of length `len` (R92, R93, R194). -/
def State.cursorAfter (s : State) (len : Nat) : Status → Nat
  | .terminal => s.pc
  | .truncated => s.rangeEnd
  | .ok | .unknownOpcode | .illegalMode => s.pc + len

/-- The shared step's record has R191's status, and the status decides its cursor. -/
theorem decodeAs_status_and_cursor {s t : State} {op : Byte} {c : OpClass} (h : decodeAs op c s = .next t) :
    ∃ p x, t = s.emit p x ∧ x.record.status = pickStatus s.pc s.rangeEnd c (lengthRom op) ∧
      p = s.cursorAfter (lengthRom op) x.record.status := by
  unfold decodeAs at h
  cases hst : pickStatus s.pc s.rangeEnd c (lengthRom op) <;> simp only [hst] at h
  case ok =>
    cases hf : fetchOperand s c.mode <;> simp only [hf] at h
    case error => cases h
    case ok f => cases h; exact ⟨_, _, rfl, rfl, rfl⟩
  case terminal | truncated | unknownOpcode | illegalMode => cases h; exact ⟨_, _, rfl, rfl, rfl⟩

/-- Settles O23: in Ready the status is the shared step's, for the class of the byte that was read. -/
theorem statusByPriority : Obligations.StatusByPriority := by
  intro s t op h hop
  obtain ⟨hex, rfl⟩ | ⟨hready, -⟩ := decodeOne_cases h
  · exact ⟨_, rfl, (if_pos hex).symm⟩
  · rw [decodeOne_eq_decodeAs hready (hop hready)] at h
    obtain ⟨_, x, rfl, hst, -⟩ := decodeAs_status_and_cursor h
    exact ⟨x, rfl, hst.trans (pickStatus_eq_by_kind ..)⟩

/-- Settles O24: the status decides the cursor; the two statuses that advance 1 belong to classes without a mode, whose length
is 1. -/
theorem conditionsOnlyMoveCursor : Obligations.ConditionsOnlyMoveCursor := by
  intro s hinv
  obtain hready | hex := Nat.lt_or_ge s.pc s.rangeEnd
  · obtain ⟨op, hop⟩ := hinv.readByte (Nat.le_refl s.pc) hready
    obtain ⟨t, hone⟩ := hinv.decodeOne_completes
    have hstep := decodeOne_eq_decodeAs hready hop
    obtain ⟨_, x, rfl, hst, rfl⟩ := decodeAs_status_and_cursor (hstep.symm.trans hone)
    have hlen (h : x.record.status = .unknownOpcode ∨ x.record.status = .illegalMode) : lengthRom op = 1 :=
      lengthRom_of_mode_none _ op (mode_none_of_pickStatus (hst ▸ h))
    refine ⟨x, _, hone, ?_⟩
    cases hx : x.record.status
    case ok => exact ⟨op, hop, rfl⟩
    case unknownOpcode => exact congrArg (s.pc + ·) (hlen (.inl hx))
    case illegalMode => exact congrArg (s.pc + ·) (hlen (.inr hx))
    case truncated => rfl
    case terminal => rfl
  · exact ⟨_, _, decodeOne_exhausted hex, rfl⟩

/-! ### The truncation clamp (R194) -/

/-- A class with a mode is Special or Generic. -/
theorem special_or_generic_of_mode {c : OpClass} {md : Mode} (h : c.mode = some md) :
    ∃ mn, c = .special mn md ∨ c = .generic mn md := by
  cases c with
  | special mn _ => cases h; exact ⟨mn, .inl rfl⟩
  | generic mn _ => cases h; exact ⟨mn, .inr rfl⟩
  | illegalMode mn => cases h
  | unknown => cases h

/-- A length that does not fit is more than 1, so the byte has a mode. -/
theorem classify_mode_of_short {s : State} {op : Byte} (z : Bool) (hready : s.pc < s.rangeEnd)
    (hshort : s.rangeEnd < s.pc + lengthRom op) : ∃ md, (classify z op).mode = some md := by
  cases hm : (classify z op).mode with
  | none =>
    have hlen := lengthRom_of_mode_none z op hm
    omega
  | some md => exact ⟨md, rfl⟩

/-- The text of a truncated step (R80). -/
theorem stepText_cut {c : OpClass} {mn : Mnemonic} {md : Mode} (hmn : c.mnemonic = some mn) (hmd : c.mode = some md)
    (p : Params) (v : Option OperandValue) :
    stepText p c true v = if md = .imp then mnemonicText mn else mnemonicText mn ++ " " ++ p.truncated := by
  by_cases himp : md = .imp
  · rw [if_pos himp, stepText_implied hmn hmd himp]
  · rw [if_neg himp, stepText_truncated hmn hmd himp]

/-- Settles O26: the byte has a mode, so its shared step is the cut step, with R80's text. -/
theorem truncationClampsCursor : Obligations.TruncationClampsCursor := by
  intro s op hready hop hshort
  obtain ⟨md, hmd⟩ := classify_mode_of_short s.params.zpySubst hready hshort
  obtain ⟨mn, hclass⟩ := special_or_generic_of_mode hmd
  have hmn : (classify s.params.zpySubst op).mnemonic = some mn := by
    obtain hc | hc := hclass <;> rw [hc] <;> rfl
  refine ⟨mn, md, hclass, ?_⟩
  rw [decodeOne_eq_decodeAs hready hop, decodeAs_eq_cut hmn hmd hready hshort, stepText_cut hmn hmd]

end Sys2Proof.Machine
end
